-- ==== Sys2Proof/Word.lean ====
section
/-! DEFINITION. The words of the pack4x5 combinadic core (00_scope.md rules R7 to R9).
Bit 0 is the least significant bit of every word (R12). -/

namespace Sys2Proof

/-- A request word or a response data word: 32 bits (R9, R50, R56). -/
abbrev Word := BitVec 32

/-- An element of an ENCODE request or a digit of a DECODE response: an unsigned 5-bit value
(R7, R17). -/
abbrev Element := BitVec 5

/-- A code: an unsigned 16-bit value, of which only 0 to 52359 is valid (R8). -/
abbrev Code := BitVec 16

end Sys2Proof
end

