-- ==== Sys2Proof/Config.lean ====
section
/-! DEFINITION. What one implementation of the block fixes, and the values the spec leaves open.
An `opaque` constant here has no body: no proof can learn its value, so whatever is proved holds
for every value (rules R10, R30, R59, R142 and 93_implementation_defined.md). A free value is applied
to everything the block has seen, so that draws in different circumstances are not tied to each other
(log 8). -/

namespace Sys2Proof

/-- What one clock edge did at the ports: whether it was a reset edge (R140), whether a response was
taken (R28), and the word accepted, if one was (R27). An offer that is not accepted leaves no mark
(R43). -/
structure Edge where
  reset : Bool
  taken : Bool
  accepted : Option Word
deriving DecidableEq, Repr

/-- Everything the block has seen when a value is drawn: the edges so far, newest first, and the
requests in flight, oldest first. What the spec leaves open may depend on any of it (log 8). -/
structure Seen where
  past : List Edge
  queue : List Word
deriving DecidableEq, Repr

end Sys2Proof

namespace Sys2Proof.Config

/-- CAPACITY less one: the open parameter of rule R10. It has no value here. -/
opaque extraCapacity : Nat

/-- CAPACITY, at least 1: the largest number of accepted requests whose responses have not been
transferred (R10, R26, D5, U15; log 4). -/
def capacity : Nat := extraCapacity + 1

/-- A free delay: how many clock edges beyond the first the response to the head of `Q` is held
back. With it LATENCY is at least 1, finite and may differ from request to request, also by the
request's word (R10, R30, R151, U14; log 3). -/
opaque freeDelay : Seen → Nat

/-- A draw of `ANY32`, the data word of an error response (R14, R59, U2; log 5). -/
opaque any32 : Seen → Word

/-- What `rsp_data` carries in a cycle with `rsp_valid = 0` (R30, U3; log 6). -/
opaque idleRspData : Seen → Word

/-- What `rsp_status` carries in a cycle with `rsp_valid = 0` (R30, U3; log 6). -/
opaque idleRspStatus : Seen → BitVec 2

/-- What `req_ready` carries in a cycle with `rst = 1` (R31, R142, U4; log 6). -/
opaque resetReqReady : Seen → Bool

/-- `cc(n, r)` outside its domain, where the spec gives it no value and the block never evaluates
it (R70, R84, U6, N11; log 10). -/
opaque ccOutside : Nat → Nat → Nat

end Sys2Proof.Config
end

