-- ==== Sys2Proof/Machine/ChoiceCount.lean ====
section
/-! DEFINITION. The choice-count unit (40_choice_count.md), over the naturals and exact
(R13, R80, R81). -/

namespace Sys2Proof.Machine

/-- The case algorithm of rules R72 to R79, as the pseudocode of 40_choice_count.md writes it.
Every division is exact on the domain (R80). -/
def ccCases (n r : Nat) : Nat :=
  if n = 0 then 0
  else if n = 1 then 1
  else if n = 2 then r + 1
  else if n = 3 then (r + 1) * (r + 2) / 2
  else if r = 1 then n
  else
    let t2 := n * (n + 1) / 2
    if r = 2 then t2
    else
      let t3 := t2 * (n + 2) / 3
      if r = 3 then t3 else t3 * (n + 3) / 4

/-- The choice count `cc(n, r)` of rule R70, for 0 ≤ n ≤ 32 and 1 ≤ r ≤ 4. Outside that domain the
spec gives no value and neither does the model (R84, U6; log 10). -/
def cc (n r : Nat) : Nat :=
  if n ≤ 32 ∧ 1 ≤ r ∧ r ≤ 4 then ccCases n r else Config.ccOutside n r

/-- The number of valid codes, NCODES = C(35,4) = 52360 = 0xCC88 (R8). -/
def nCodes : Nat := 52360

/-- The table of rule R85 for n = 0 to 16: row n holds cc(n,1), cc(n,2), cc(n,3), cc(n,4). -/
def choiceCountRowsLow : List (List Nat) :=
  [[0, 0, 0, 0], [1, 1, 1, 1], [2, 3, 4, 5], [3, 6, 10, 15], [4, 10, 20, 35], [5, 15, 35, 70],
    [6, 21, 56, 126], [7, 28, 84, 210], [8, 36, 120, 330], [9, 45, 165, 495], [10, 55, 220, 715],
    [11, 66, 286, 1001], [12, 78, 364, 1365], [13, 91, 455, 1820], [14, 105, 560, 2380],
    [15, 120, 680, 3060], [16, 136, 816, 3876]]

/-- The table of rule R85 for n = 17 to 32. -/
def choiceCountRowsHigh : List (List Nat) :=
  [[17, 153, 969, 4845], [18, 171, 1140, 5985], [19, 190, 1330, 7315], [20, 210, 1540, 8855],
    [21, 231, 1771, 10626], [22, 253, 2024, 12650], [23, 276, 2300, 14950], [24, 300, 2600, 17550],
    [25, 325, 2925, 20475], [26, 351, 3276, 23751], [27, 378, 3654, 27405], [28, 406, 4060, 31465],
    [29, 435, 4495, 35960], [30, 465, 4960, 40920], [31, 496, 5456, 46376], [32, 528, 5984, 52360]]

/-- The 132 entries a table-driven implementation must hold (R85, R145). It is a constant, not state
(R34); the operations compute the choice count instead. -/
def choiceCountTable : List (List Nat) := choiceCountRowsLow ++ choiceCountRowsHigh

/-- The entry for n and r of the table of rule R85. DESIGN CHOICE, safe: outside the table (n above
32, r = 0 or r above 4), where the spec gives no value (U6, N11), there is no entry: `none`, never a
number. No operation of the machine reads the table (log 10). -/
def tableEntry (n r : Nat) : Option Nat :=
  match r with
  | 0 => none
  | k + 1 => (choiceCountTable[n]?).bind fun row => row[k]?

/-- The optional fixed-point division by 3 of rule R87: `(x · K) >> 16`. The block's results do not
use it here; R87 says for which constants it may stand in for the exact division. -/
def reciprocalDiv3 (k x : Nat) : Nat := (x * k) >>> 16

end Sys2Proof.Machine
end

