-- ==== Sys2Proof/Syntax.lean ====
section
/-! DEFINITION. The operations of the block (R3, R51) and the source lines of its assembler
(R65). -/

namespace Sys2Proof

/-- One constructor per row of the opcode table (R67). The operands are the fields of the request
word (R52, R53), so each operand's width is its field's and no element can be out of range
(R96). -/
inductive Instr where
  /-- ENCODE, rule R90: the four elements E0, E1, E2, E3. -/
  | encode (e0 e1 e2 e3 : Element)
  /-- DECODE, rule R100: the code CODE. -/
  | decode (code : Code)
deriving DecidableEq, Repr

/-- One request as the assembler of rule R65 is given it: a mnemonic or the directive `.word`,
and operand literals, which are natural numbers of any size. -/
inductive SourceLine where
  /-- `ENCODE e0, e1, e2, e3` -/
  | encode (e0 e1 e2 e3 : Nat)
  /-- `DECODE code` -/
  | decode (code : Nat)
  /-- `.word w` -/
  | word (w : Nat)
deriving DecidableEq, Repr

/-- The source line that stands for an operation (R65). -/
def Instr.source : Instr → SourceLine
  | .encode e0 e1 e2 e3 => .encode e0.toNat e1.toNat e2.toNat e3.toNat
  | .decode code => .decode code.toNat

end Sys2Proof
end

