-- ==== Sys2Proof/WellFormed.lean ====
section
/-! DEFINITION. Which source lines the assembler accepts (R66), and with them which operations are
well formed. -/

namespace Sys2Proof

/-- The checks of rule R66: each ENCODE operand is 0 to 31, the DECODE operand is 0 to 65535
(52360 to 65535 are accepted), and the operand of `.word` is a 32-bit word (R65; log 12). -/
def SourceLine.wf : SourceLine → Bool
  | .encode e0 e1 e2 e3 => decide (e0 ≤ 31) && decide (e1 ≤ 31) && decide (e2 ≤ 31) && decide (e3 ≤ 31)
  | .decode code => decide (code ≤ 65535)
  | .word w => decide (w < 2 ^ 32)

/-- An operation is well formed when its source line passes the checks of rule R66. Its operands
have their fields' widths, so every one does (R96): `Sys2Proof.Laws.WellFormed` shows it. -/
def Instr.wf (i : Instr) : Bool := i.source.wf

end Sys2Proof
end

