-- ==== Sys2Proof/Decode.lean ====
section
/-! DEFINITION. Request words: field extraction, the decoder of rule R61's format checks, the
encoder of rules R52 and R53, and the opcode map of rule R67. -/

namespace Sys2Proof

/-! ### Fields of a request word (R50, R52, R53, R60) -/

/-- `OP = req[31:30]` (R50). -/
def opField (req : Word) : BitVec 2 := req.extractLsb' 30 2
/-- `req[29:20]`, reserved in ENCODE (R52). -/
def encodeReserved (req : Word) : BitVec 10 := req.extractLsb' 20 10
/-- `E0 = req[4:0]` (R60). -/
def e0Field (req : Word) : Element := req.extractLsb' 0 5
/-- `E1 = req[9:5]` (R60). -/
def e1Field (req : Word) : Element := req.extractLsb' 5 5
/-- `E2 = req[14:10]` (R60). -/
def e2Field (req : Word) : Element := req.extractLsb' 10 5
/-- `E3 = req[19:15]` (R60). -/
def e3Field (req : Word) : Element := req.extractLsb' 15 5
/-- `req[29:16]`, reserved in DECODE (R53). -/
def decodeReserved (req : Word) : BitVec 14 := req.extractLsb' 16 14
/-- `CODE = req[15:0]` (R60). -/
def codeField (req : Word) : Code := req.extractLsb' 0 16

/-- The format checks of rule R61, in the order written there. `none` is an illegal word: a
reserved `OP` (R55) or a 1 in a reserved bit (R54). -/
def decodeWord (req : Word) : Option Instr :=
  if opField req = 0b01#2 then
    if encodeReserved req ≠ 0#10 then none
    else some (.encode (e0Field req) (e1Field req) (e2Field req) (e3Field req))
  else if opField req = 0b10#2 then
    if decodeReserved req ≠ 0#14 then none
    else some (.decode (codeField req))
  else none

/-- The request word of an operation: the patterns of rules R52 and R53, bit 31 first. -/
def encodeWord : Instr → Word
  | .encode e0 e1 e2 e3 => 0b01#2 ++ 0#10 ++ e3 ++ e2 ++ e1 ++ e0
  | .decode code => 0b10#2 ++ 0#14 ++ code

/-- One row of the opcode map (R67): a word is the row's when `(word & mask) == match`. -/
structure OpcodeRow where
  mnemonic : String
  matchBits : Word
  mask : Word
deriving DecidableEq, Repr

/-- Rule R67: a word matches a row. -/
def OpcodeRow.hit (row : OpcodeRow) (req : Word) : Bool := (req &&& row.mask) == row.matchBits

/-- The row ENCODE of rule R67. -/
def encodeRow : OpcodeRow := ⟨"ENCODE", 0x40000000#32, 0xFFF00000#32⟩

/-- The row DECODE of rule R67. -/
def decodeRow : OpcodeRow := ⟨"DECODE", 0x80000000#32, 0xFFFF0000#32⟩

/-- The complete opcode map (R67). -/
def opcodeMap : List OpcodeRow := [encodeRow, decodeRow]

/-- The row of the opcode map an operation belongs to. -/
def Instr.row : Instr → OpcodeRow
  | .encode _ _ _ _ => encodeRow
  | .decode _ => decodeRow

/-- What the decoder reads from the low `nbits` bits of `w`, with zeros above them. Every request
is one 32-bit word (R50, R62), so nothing longer is one. -/
def decodeTableWord (nbits w : Nat) : Option Instr :=
  if nbits ≤ 32 then decodeWord (BitVec.ofNat 32 (w % 2 ^ nbits)) else none

end Sys2Proof
end

