-- ==== Sys2Proof/Machine/State.lean ====
section
/-! DEFINITION. The block's state as plain data (10_state.md): the in-flight queue `Q`, the response
on offer, and the model's own fields for what the host drives, the open values and the
observation. -/

namespace Sys2Proof.Machine

/-- The response statuses of rule R56. `0b11` is never produced (R124), so it has no
constructor. -/
inductive Status where
  /-- `OK`, `0b00` (R123). -/
  | ok
  /-- `ERR_RANGE`, `0b01` (R121). -/
  | errRange
  /-- `ERR_ILLEGAL`, `0b10` (R122). -/
  | errIllegal
deriving DecidableEq, Repr

/-- A response: one data word and one status (R17, R56). -/
structure Response where
  data : Word
  status : Status
deriving DecidableEq, Repr

/-- What the host drives on the input ports in one clock cycle (R20). -/
structure Drive where
  rst : Bool
  reqValid : Bool
  reqData : Word
  rspReady : Bool
deriving DecidableEq, Repr

/-- What a run shows at the ports (R33, D28). -/
inductive Event where
  /-- A request was accepted (R27). -/
  | accept (req : Word)
  /-- A response was transferred (R28). -/
  | deliver (rsp : Response)
  /-- A reset edge (R140). -/
  | reset
deriving DecidableEq, Repr

/-- The state of the block between two rising edges of `clk`. -/
structure State where
  /-- `Q`: the request words accepted and not yet answered by a transfer, oldest first (R26). -/
  queue : List Word
  /-- The response on offer: present exactly when `rsp_valid = 1`, and then it is what `rsp_data`
  and `rsp_status` carry (R29, R30). -/
  offer : Option Response
  /-- Model's own: how many more edges the response to the head of `Q` is held back; absent until it
  is drawn for that request (R10, R30; log 3). -/
  wait : Option Nat
  /-- Model's own: what the edges so far did, newest first, on which free values may depend
  (log 8). -/
  past : List Edge
  /-- Model's own: what the host drives in this cycle (the head) and in the coming ones. Past its
  end the host is idle (log 2). -/
  host : List Drive
  /-- Model's own: the observation of the run so far, oldest first (R33, D28; log 7). -/
  trace : List Event
deriving DecidableEq, Repr

/-- Why the machine stops with a fault: never. An error never stops the block (R120), it has no
traps (R126), and no operation suspends or blocks (R137). So there is no constructor: nothing
raises a fault (safe: no behaviour is left out by one; log 14). -/
inductive Fault where
deriving DecidableEq, Repr

/-- Why the model gives an instruction no meaning. -/
inductive Refusal where
  /-- The form the host's interface gives to an instruction without a meaning. No arm of `exec`
  and no step raises it: both operations are modelled, and an illegal word is answered with
  ERR_ILLEGAL (safe: it would stop where the hardware goes on). -/
  | notModelled (mnemonic : String)
deriving DecidableEq, Repr

/-- The state after a reset edge (R35, R143): `Q` is empty and `rsp_valid = 0`. The other fields
are the model's own; their values here are DESIGN CHOICE (log 2, 3, 7, 8). -/
def State.reset : State where
  queue := []
  offer := none
  wait := none
  past := []
  host := []
  trace := []

end Sys2Proof.Machine
end

