-- ==== Sys2Proof/Machine/Flags.lean ====
section
/-! DEFINITION. The block has no flags (R23); what an operation reports is the 2-bit status of its
response (R56). -/

namespace Sys2Proof.Machine

/-- The value of `rsp_status` that names a status (R56). -/
def Status.bits : Status → BitVec 2
  | .ok => 0b00#2
  | .errRange => 0b01#2
  | .errIllegal => 0b10#2

/-- The status a value of `rsp_status` names. `0b11` names none (R56, R124). -/
def Status.ofBits (b : BitVec 2) : Option Status :=
  if b = 0b00#2 then some .ok
  else if b = 0b01#2 then some .errRange
  else if b = 0b10#2 then some .errIllegal
  else none

/-- The range check of DECODE (R101): a code of 52360 or more is out of range. -/
def codeOutOfRange (code : Nat) : Bool := decide (nCodes ≤ code)

end Sys2Proof.Machine
end

