-- ==== Sys2Proof/Machine/Operands.lean ====
section
/-! DEFINITION. Operands and results: elements as naturals, the descending sort, and the placement of
digits in a response word (R58, R60, R91). -/

namespace Sys2Proof.Machine

/-- Four naturals in the order the encoder sorts its elements into and the decoder emits its
digits in: `v0` first. -/
structure Quad where
  v0 : Nat
  v1 : Nat
  v2 : Nat
  v3 : Nat
deriving DecidableEq, Repr

/-- The four values as a list, `v0` first. -/
def Quad.toList (q : Quad) : List Nat := [q.v0, q.v1, q.v2, q.v3]

/-- `v0 ≥ v1 ≥ v2 ≥ v3` (R91, R108). -/
def Quad.Descending (q : Quad) : Prop := q.v1 ≤ q.v0 ∧ q.v2 ≤ q.v1 ∧ q.v3 ≤ q.v2

/-- `sort_desc` of rule R91, by a network of five compare-and-exchange cells. The method cannot be
observed (U9). -/
def sortDesc (a b c d : Nat) : Quad :=
  let hi1 := max a b
  let lo1 := min a b
  let hi2 := max c d
  let lo2 := min c d
  let mid1 := min hi1 hi2
  let mid2 := max lo1 lo2
  { v0 := max hi1 hi2, v1 := max mid1 mid2, v2 := min mid1 mid2, v3 := min lo1 lo2 }

/-- An ENCODE operand form: the field read as an unsigned natural, zero-extended (R60). -/
def elementValue (e : Element) : Nat := e.toNat

/-- A DECODE operand form: the field read as an unsigned natural, zero-extended (R60). -/
def codeValue (c : Code) : Nat := c.toNat

/-- `zext_32(code)`: the data word of an OK ENCODE response (R57). -/
def codeData (code : Nat) : Word := (BitVec.ofNat 16 code).setWidth 32

/-- `{0x000, D3, D2, D1, D0}`: the data word of an OK DECODE response, D0 the largest digit in the
least significant field (R58, R100). -/
def digitData (q : Quad) : Word :=
  0x000#12 ++ BitVec.ofNat 5 q.v3 ++ BitVec.ofNat 5 q.v2 ++ BitVec.ofNat 5 q.v1 ++ BitVec.ofNat 5 q.v0

end Sys2Proof.Machine
end

