-- ==== Sys2Proof/Machine/Ops.lean ====
section
/-! DEFINITION. The operations every meaning and every step is made of: the output ports, `respond` and
`raise` (R14), the three transitions of rule R33, and the handshakes of a clock edge (R27, R28). -/

namespace Sys2Proof.Machine

/-! ### The ports in the current cycle -/

/-- A host that offers nothing, takes nothing and does not reset (log 2). -/
def idleDrive : Drive := ⟨false, false, 0#32, false⟩

/-- What the host drives in the current cycle. -/
def State.drive (s : State) : Drive := s.host.headD idleDrive

/-- What free values of the current cycle may depend on (log 8). -/
def State.seen (s : State) : Seen := ⟨s.past, s.queue⟩

/-- `req_ready` (R31): 1 exactly when `|Q| < CAPACITY`; unspecified while `rst = 1`. -/
def State.reqReady (s : State) : Bool :=
  if s.drive.rst then Config.resetReqReady s.seen else decide (s.queue.length < Config.capacity)

/-- `rsp_valid` (R29). -/
def State.rspValid (s : State) : Bool := s.offer.isSome

/-- `rsp_data` (R29); unspecified while `rsp_valid = 0` (R30). -/
def State.rspData (s : State) : Word :=
  match s.offer with
  | some r => r.data
  | none => Config.idleRspData s.seen

/-- `rsp_status` (R29, R56); unspecified while `rsp_valid = 0` (R30). -/
def State.rspStatus (s : State) : BitVec 2 :=
  match s.offer with
  | some r => r.status.bits
  | none => Config.idleRspStatus s.seen

/-- A request is accepted at the coming edge (R27). -/
def State.accepts (s : State) : Bool := !s.drive.rst && s.drive.reqValid && s.reqReady

/-- A response is transferred at the coming edge (R28). -/
def State.transfers (s : State) : Bool := !s.drive.rst && s.rspValid && s.drive.rspReady

/-! ### Responding (R14) -/

/-- The response of `raise E`: the error status and an unconstrained data word (R14, R59). -/
def raiseResponse (e : Status) (any : Word) : Response := ⟨any, e⟩

/-- `respond`: from now on the response is on offer, `rsp_valid = 1` (R14, R29). -/
def State.respond (s : State) (r : Response) : State := { s with offer := some r }

/-- The draw of `ANY32` for a response that is put on offer in this state (R29, R59; log 5). -/
def State.any32 (s : State) : Word := Config.any32 s.seen

/-- `raise E` (R14): the block's only way to report an error. It saves no state, changes no mode and
goes nowhere (R120, R126); the error is the status of the response (R121, R122). -/
def State.raise (s : State) (e : Status) : State := s.respond (raiseResponse e s.any32)

/-! ### The transitions of rule R33 -/

/-- `Accept(w)`: the word is appended to the end of `Q` (R27, R33). -/
def State.accept (s : State) (req : Word) : State :=
  { s with queue := s.queue ++ [req], trace := s.trace ++ [.accept req] }

/-- `Deliver`: the response on offer leaves and the head of `Q` is removed (R28, R33). No delay is
drawn yet for the next request (log 3). -/
def State.deliver (s : State) : State :=
  match s.offer with
  | some r =>
    { s with
      queue := s.queue.tail
      offer := none
      wait := none
      trace := s.trace ++ [.deliver r] }
  | none => s

/-- `Reset`: `Q` becomes empty and the requests in flight get no response (R33, R141). -/
def State.dropAll (s : State) : State :=
  { s with queue := [], offer := none, wait := none, trace := s.trace ++ [.reset] }

/-! ### A clock edge -/

/-- What the coming edge does at the ports. -/
def State.edge (s : State) : Edge where
  reset := s.drive.rst
  taken := s.transfers
  accepted := if s.accepts then some s.drive.reqData else none

/-- The current cycle ends: its drive is used up and its edge is past. -/
def State.nextCycle (s : State) : State := { s with past := s.edge :: s.past, host := s.host.tail }

/-- How many more edges the response to the head of `Q` is held back: what is left of the delay drawn
for it, or a new draw (R10, R30; log 3). -/
def State.delay (s : State) : Nat := s.wait.getD (Config.freeDelay s.seen)

/-- The handshakes at an edge with `rst = 0` (R27, R28). Both are decided from the ports before the
edge, so `|Q|` is taken before it (R31) and a request accepted at this edge is not delivered at it
(R33). The transfer is written first; the two commute (R33; log 1). -/
def State.handshake (s : State) : State :=
  let t := s.nextCycle
  let u := if s.transfers then t.deliver else t
  if s.accepts then u.accept s.drive.reqData else u

/-- A reset edge (R140, R141): nothing is accepted and nothing is transferred. -/
def State.resetEdge (s : State) : State := s.nextCycle.dropAll

end Sys2Proof.Machine
end

