-- ==== Sys2Proof/Machine/Decoder.lean ====
section
/-! DEFINITION. The unit `combinadic_decoder`: DECODE (42_decode.md). -/

namespace Sys2Proof.Machine

/-- What a search tracks: the largest probed value that satisfies the predicate, and its choice
count, the floor (R103). -/
structure SearchState where
  lo : Nat
  floor : Nat
deriving DecidableEq, Repr

/-- The steps of the search, in order (R103). -/
def searchSteps : List Nat := [16, 8, 4, 2, 1]

/-- One probe (R103): `lo` moves up by the step when the candidate's choice count is at most the
remainder. -/
def probe (rem r : Nat) (st : SearchState) (step : Nat) : SearchState :=
  let cand := st.lo + step
  let c := cc cand r
  if c ≤ rem then ⟨cand, c⟩ else st

/-- The search after the probes of the given steps, from `lo = 0` and `floor = 0` (R103, N14). -/
def searchAfter (rem r : Nat) (steps : List Nat) : SearchState := steps.foldl (probe rem r) ⟨0, 0⟩

/-- The digit of stage `r` and its floor (R103, R104). -/
def search (rem r : Nat) : SearchState := searchAfter rem r searchSteps

/-- The stages r = 4, 3, 2 in turn, then the remainder as the last digit (R102, R105, R106). -/
def decodeDigits (code : Nat) : Quad :=
  let s4 := search code 4
  let rem4 := code - s4.floor
  let s3 := search rem4 3
  let rem3 := rem4 - s3.floor
  let s2 := search rem3 2
  let rem2 := rem3 - s2.floor
  { v0 := s4.lo, v1 := s3.lo, v2 := s2.lo, v3 := rem2 }

/-- The response DECODE defines (R100): ERR_RANGE for a code of 52360 or more (R101), else the four
digits (R58). -/
def decodeResponse (code : Code) (any : Word) : Response :=
  if codeOutOfRange (codeValue code) then raiseResponse .errRange any
  else ⟨digitData (decodeDigits (codeValue code)), .ok⟩

/-- DECODE (R100): the response is put on offer, and nothing else is written. -/
def execDecode (code : Code) (s : State) : Host.Outcome State Fault Refusal :=
  .next (s.respond (decodeResponse code s.any32))

end Sys2Proof.Machine
end

