-- ==== Sys2Proof/Machine/Encoder.lean ====
section
/-! DEFINITION. The unit `combinadic_encoder`: ENCODE (41_encode.md). -/

namespace Sys2Proof.Machine

/-- The sum of the four combinadic digits of a sorted quadruple (R92); the last digit is the
element itself (R98). -/
def digitSum (q : Quad) : Nat := cc q.v0 4 + cc q.v1 3 + cc q.v2 2 + q.v3

/-- The code of four elements: sort, then sum (R90, R91, R92). -/
def encodeValue (e0 e1 e2 e3 : Element) : Nat :=
  digitSum (sortDesc (elementValue e0) (elementValue e1) (elementValue e2) (elementValue e3))

/-- The response ENCODE defines (R90, R57): always OK. -/
def encodeResponse (e0 e1 e2 e3 : Element) : Response := ⟨codeData (encodeValue e0 e1 e2 e3), .ok⟩

/-- ENCODE (R90): `respond(zext_32(code), OK)`, and nothing else is written (R95). -/
def execEncode (e0 e1 e2 e3 : Element) (s : State) : Host.Outcome State Fault Refusal :=
  .next (s.respond (encodeResponse e0 e1 e2 e3))

end Sys2Proof.Machine
end

