-- ==== Sys2Proof/Machine/Dispatch.lean ====
section
/-! DEFINITION. The dispatch from an operation to its meaning, one arm per constructor (R61). -/

namespace Sys2Proof.Machine

def exec (i : Instr) (s : State) : Host.Outcome State Fault Refusal :=
  match i with
  | .encode e0 e1 e2 e3 => Sys2Proof.Machine.execEncode e0 e1 e2 e3 s
  | .decode code => Sys2Proof.Machine.execDecode code s

end Sys2Proof.Machine
end

