-- ==== Sys2Proof/Machine/Request.lean ====
section
/-! DEFINITION. Running the request at the head of the queue (R29, R61). -/

namespace Sys2Proof.Machine

/-- `Exec(req)` of rule R61 as the machine runs it: a legal word runs its operation, every other
word raises ERR_ILLEGAL (R54, R55, R63). -/
def runRequest (req : Word) (s : State) : Host.Outcome State Fault Refusal :=
  match decodeWord req with
  | some i => exec i s
  | none => .next (s.raise .errIllegal)

/-- `Exec(req)` of rule R61 as a function: the one response to a request word, given the draw of
`ANY32`. It reads nothing but its arguments (R15, R32). -/
def responseOf (req any : Word) : Response :=
  match decodeWord req with
  | some (.encode e0 e1 e2 e3) => encodeResponse e0 e1 e2 e3
  | some (.decode code) => decodeResponse code any
  | none => raiseResponse .errIllegal any

/-- After the handshakes of an edge: if no response is on offer and a request is in flight, the
request at the head of `Q` is run once its delay is over, and waits one edge less otherwise
(R29, R30; log 3). -/
def State.answer (s : State) : Host.Outcome State Fault Refusal :=
  match s.offer, s.queue, s.delay with
  | none, req :: _, 0 => runRequest req s
  | none, _ :: _, n + 1 => .next { s with wait := some n }
  | _, _, _ => .next s

/-- The request word `req` stands at the head of `Q`, due to run at the next edge, and the host does
not reset at that edge (log 11). Nothing else changes. -/
def State.withHeadRequest (s : State) (req : Word) : State :=
  { s with
    queue := req :: s.queue.tail
    offer := none
    wait := some 0
    host := match s.host with
      | [] => []
      | d :: ds => { d with rst := false } :: ds }

end Sys2Proof.Machine
end

