-- ==== Sys2Proof/Machine/Step.lean ====
section
/-! DEFINITION. One step: one rising edge of `clk` (R20, R140). -/

namespace Sys2Proof.Machine

/-- One rising edge. With `rst = 1` it is a reset edge (R141). Otherwise the handshakes take place
(R27, R28), and then the head of `Q` is answered if it is due (R29, R30). -/
def step (s : State) : Host.Outcome State Fault Refusal :=
  if s.drive.rst then .next s.resetEdge else s.handshake.answer

/-- The request word whose low `nbits` bits are `w`, with zeros above, placed where the next step
runs it: at the head of `Q`, due at once (log 11). -/
def State.withFetchWord (s : State) (nbits w : Nat) : State :=
  s.withHeadRequest (BitVec.ofNat 32 (w % 2 ^ nbits))

end Sys2Proof.Machine
end

