-- ==== Sys2Proof/Machine/Assembler.lean ====
section
/-! DEFINITION. The assembler of rules R65 and R66: from text to request words. It has no part in a
step: syntax carries no semantics beyond the words (D25). -/

namespace Sys2Proof.Machine

/-- The word of a source line, by the formulas of rule R65; `none` where rule R66 refuses. -/
def assemble (l : SourceLine) : Option Word :=
  if l.wf then
    match l with
    | .encode e0 e1 e2 e3 =>
      some (0x40000000#32 ||| BitVec.ofNat 32 e3 <<< 15 ||| BitVec.ofNat 32 e2 <<< 10
        ||| BitVec.ofNat 32 e1 <<< 5 ||| BitVec.ofNat 32 e0)
    | .decode code => some (0x80000000#32 ||| BitVec.ofNat 32 code)
    | .word w => some (BitVec.ofNat 32 w)
  else none

/-! ### Text (R65; what blanks, digits and blank lines may be is log 12) -/

/-- A blank between the parts of a line. -/
def isBlank (c : Char) : Bool := c == ' ' || c == '\t' || c == '\r'

/-- The text without the blanks at its two ends. -/
def trimBlanks (cs : List Char) : List Char :=
  ((cs.dropWhile isBlank).reverse.dropWhile isBlank).reverse

/-- The pieces of a text between the occurrences of a separator. -/
def splitAtChar (sep : Char) : List Char → List (List Char)
  | [] => [[]]
  | c :: cs =>
    if c == sep then [] :: splitAtChar sep cs
    else match splitAtChar sep cs with
      | [] => [[c]]
      | l :: ls => (c :: l) :: ls

/-- The value of a digit in a base up to 16. -/
def digitValue (base : Nat) (c : Char) : Option Nat :=
  let n := c.toNat
  let v := if 48 ≤ n ∧ n ≤ 57 then n - 48
    else if 65 ≤ n ∧ n ≤ 70 then n - 55
    else if 97 ≤ n ∧ n ≤ 102 then n - 87
    else base
  if v < base then some v else none

/-- The value of a run of digits, most significant first, after the value read so far. -/
def digitsValue (base acc : Nat) : List Char → Option Nat
  | [] => some acc
  | c :: cs =>
    match digitValue base c with
    | some v => digitsValue base (base * acc + v) cs
    | none => none

/-- A decimal or `0x` hexadecimal literal (R65), blanks around it ignored. -/
def literalValue (cs : List Char) : Option Nat :=
  match trimBlanks cs with
  | '0' :: 'x' :: d :: ds => digitsValue 16 0 (d :: ds)
  | d :: ds => digitsValue 10 0 (d :: ds)
  | [] => none

/-- Operands separated by commas (R65). -/
def operandValues (cs : List Char) : Option (List Nat) := (splitAtChar ',' cs).mapM literalValue

/-- One line of text: `some none` when it holds only blanks and a comment, `none` when it is no line
of the syntax of rule R65. -/
def parseLine (cs : List Char) : Option (Option SourceLine) :=
  let body := trimBlanks (cs.takeWhile (· != ';'))
  let mnemonic := body.takeWhile (fun c => !isBlank c)
  if body = [] then some none
  else
    match operandValues (body.drop mnemonic.length) with
    | some [e0, e1, e2, e3] =>
      if mnemonic = ['E', 'N', 'C', 'O', 'D', 'E'] then some (some (.encode e0 e1 e2 e3)) else none
    | some [n] =>
      if mnemonic = ['D', 'E', 'C', 'O', 'D', 'E'] then some (some (.decode n))
      else if mnemonic = ['.', 'w', 'o', 'r', 'd'] then some (some (.word n))
      else none
    | _ => none

/-- The words of a sequence of lines: a line without a request gives none, and one refused line
refuses the whole. -/
def assembleLines : List (List Char) → Option (List Word)
  | [] => some []
  | l :: ls =>
    match parseLine l, assembleLines ls with
    | some none, some ws => some ws
    | some (some src), some ws => (assemble src).map (· :: ws)
    | _, _ => none

/-- The request words of a text, one request per line (R65). -/
def assembleText (text : List Char) : Option (List Word) := assembleLines (splitAtChar '\n' text)

end Sys2Proof.Machine
end

