-- ==== Sys2Proof/Safety.lean ====
section
/-! DEFINITION. The terms claims use: the transition system of rule R33, what a run has shown, the
invariants of the channel, and what makes a step safe. -/

namespace Sys2Proof.Machine

/-! ### The transition system of rule R33, over `Q` alone -/

/-- One transition of rule R33 from the queue `q` to the queue `q'`, with what it shows. A delivery
shows `Exec(head(Q))` for some draw of `ANY32`. -/
def Transition (q : List Word) (e : Event) (q' : List Word) : Prop :=
  match e with
  | .accept req => q.length < Config.capacity ∧ q' = q ++ [req]
  | .deliver rsp => ∃ req any, q = req :: q' ∧ rsp = responseOf req any
  | .reset => q' = []

/-- A sequence of transitions, oldest first. -/
def Transitions (q : List Word) (es : List Event) (q' : List Word) : Prop :=
  match es with
  | [] => q' = q
  | e :: rest => ∃ mid, Transition q e mid ∧ Transitions mid rest q'

/-! ### Infinite behaviours and weak fairness (R151) -/

/-- An infinite behaviour of the transition system: `shown n` leads from the queue `q n` to the queue
`q (n + 1)`. -/
def Behaviour (q : Nat → List Word) (shown : Nat → List Event) : Prop :=
  ∀ n, Transitions (q n) (shown n) (q (n + 1))

/-- Weak fairness of `Deliver` (R151): it is enabled while `Q` is not empty (R33), and if it stays
enabled from some point on, it is taken. -/
def WeaklyFairDeliver (q : Nat → List Word) (shown : Nat → List Event) : Prop :=
  ∀ m, (∀ n, m ≤ n → q n ≠ []) → ∃ n, m ≤ n ∧ ∃ rsp, Event.deliver rsp ∈ shown n

/-- An infinite run of the block: in cycle `n` the host drives `drives n` (R20). -/
def InfiniteRun (drives : Nat → Drive) (run : Nat → State) : Prop :=
  ∀ n, step { run n with host := [drives n] } = .next (run (n + 1))

/-! ### What a run has shown -/

/-- The events since the last reset event, oldest first; all of them if there is none. -/
def sinceReset (es : List Event) : List Event :=
  es.foldl (fun kept e => if e = .reset then [] else kept ++ [e]) []

/-- The requests accepted, in order. -/
def acceptedOf (es : List Event) : List Word :=
  es.filterMap fun e => match e with
    | .accept req => some req
    | _ => none

/-- The responses transferred, in order. -/
def deliveredOf (es : List Event) : List Response :=
  es.filterMap fun e => match e with
    | .deliver rsp => some rsp
    | _ => none

/-! ### Invariants -/

/-- What the ports promise in every state of a run: at most CAPACITY requests are in flight (R26),
and a response on offer is that of the head of `Q` (R29). -/
def State.ChannelInv (s : State) : Prop :=
  s.queue.length ≤ Config.capacity ∧
    ∀ rsp, s.offer = some rsp → ∃ req rest any, s.queue = req :: rest ∧ rsp = responseOf req any

/-- Rule R45 in one state: since the last reset the k-th response transferred is `Exec` of the k-th
request accepted, and the accepted requests not yet answered are exactly `Q`, in order. -/
def State.InOrder (s : State) : Prop :=
  (acceptedOf (sinceReset s.trace)).drop (deliveredOf (sinceReset s.trace)).length = s.queue ∧
    (deliveredOf (sinceReset s.trace)).length ≤ (acceptedOf (sinceReset s.trace)).length ∧
      ∀ (k : Nat) (req : Word) (rsp : Response), (acceptedOf (sinceReset s.trace))[k]? = some req →
        (deliveredOf (sinceReset s.trace))[k]? = some rsp → ∃ any, rsp = responseOf req any

/-- A safe step: it ends in a next state, never in a fault or a refusal (R120). -/
def State.StepsSafely (s : State) : Prop := ∃ t, step s = .next t

/-- Two states that differ at most in which response is on offer, both having one: what a step sees of
an error is its status alone (R120, R127). -/
def State.SameButResponse (s t : State) : Prop :=
  s.queue = t.queue ∧ s.offer.isSome = t.offer.isSome ∧ s.wait = t.wait ∧ s.past = t.past ∧ s.host = t.host

end Sys2Proof.Machine
end

