-- ==== Sys2Proof/Certificates/Slice0/Obligations.lean ====
section
/-! DEFINITION. The statements for the provers. Each docstring names the rules of spec/ it formalises.
A statement about a response with an unspecified data word says only that there is one, so it
holds for every draw. -/

open Sys2Proof Sys2Proof.Machine

/-! ### Request words -/

/-- Rules R52, R53, R54, R55, R65, on words written out from the patterns. -/
def Obligations.WrittenWordsDecodeToTheirOperations : Prop :=
  decodeWord 0b01_0000000000_11110_01001_10110_01011#32 = some (.encode 11#5 22#5 9#5 30#5) ∧
  decodeWord 0b01_0000000000_10000_00000_00000_00000#32 = some (.encode 0#5 0#5 0#5 16#5) ∧
  decodeWord 0b10_00000000000000_1010100000001011#32 = some (.decode 43019#16) ∧
  decodeWord 0b00_000000000000000000000000000000#32 = none ∧
  decodeWord 0b11_000000000000000000000000000000#32 = none ∧
  decodeWord 0b01_0000000001_00000_00000_00000_00000#32 = none ∧
  decodeWord 0b10_00000000000001_0000000000000000#32 = none

/-- Decoding the word of a well-formed operation gives the operation back, for every operand
(R52, R53, R61). -/
def Obligations.DecodeOfEncodeIsIdentity : Prop :=
  ∀ i : Instr, i.wf = true → decodeWord (encodeWord i) = some i

/-- A legal word is the word of the operation it decodes to: no bit of it is dropped
(R52, R53, R54). -/
def Obligations.EncodeOfDecodeIsIdentity : Prop :=
  ∀ (req : Word) (i : Instr), decodeWord req = some i → encodeWord i = req

/-- Rules R60 and R67: a word is legal exactly when it matches a row of the opcode map, it never
matches both, and its operands are its fields read as unsigned naturals. -/
def Obligations.DecodeFollowsOpcodeMap : Prop :=
  (∀ req : Word, ((req &&& 0xFFF00000#32) = 0x40000000#32 ↔
    ∃ e0 e1 e2 e3, decodeWord req = some (.encode e0 e1 e2 e3))) ∧
  (∀ req : Word, ((req &&& 0xFFFF0000#32) = 0x80000000#32 ↔
    ∃ code, decodeWord req = some (.decode code))) ∧
  (∀ req : Word, ¬((req &&& 0xFFF00000#32) = 0x40000000#32 ∧ (req &&& 0xFFFF0000#32) = 0x80000000#32)) ∧
  (∀ (req : Word) (e0 e1 e2 e3 : Element), decodeWord req = some (.encode e0 e1 e2 e3) →
    e0.toNat = req.toNat % 2 ^ 5 ∧ e1.toNat = req.toNat / 2 ^ 5 % 2 ^ 5 ∧
    e2.toNat = req.toNat / 2 ^ 10 % 2 ^ 5 ∧ e3.toNat = req.toNat / 2 ^ 15 % 2 ^ 5) ∧
  (∀ (req : Word) (code : Code), decodeWord req = some (.decode code) →
    code.toNat = req.toNat % 2 ^ 16) ∧
  opcodeMap = [⟨"ENCODE", 0x40000000#32, 0xFFF00000#32⟩, ⟨"DECODE", 0x80000000#32, 0xFFFF0000#32⟩] ∧
  (∀ req : Word, decodeWord req = none ↔ ∀ row ∈ opcodeMap, row.hit req = false) ∧
  (∀ (req : Word) (i : Instr), decodeWord req = some i → i.row.hit req = true)

/-- Rule R63: the numbers of ENCODE words, DECODE words and illegal words, and that every illegal
word gets ERR_ILLEGAL. -/
def Obligations.LegalWordsAreCounted : Prop :=
  Nat.card { req : Word // ∃ e0 e1 e2 e3, decodeWord req = some (.encode e0 e1 e2 e3) } = 2 ^ 20 ∧
  Nat.card { req : Word // ∃ code, decodeWord req = some (.decode code) } = 2 ^ 16 ∧
  Nat.card { req : Word // decodeWord req = none } = 2 ^ 32 - 2 ^ 20 - 2 ^ 16 ∧
  ∀ (req : Word) (s : State), decodeWord req = none →
    ∃ any, runRequest req s = .next { s with offer := some ⟨any, .errIllegal⟩ }

/-- Rule R55: a request with `OP = 0b00` or `OP = 0b11` is illegal, whatever its other bits. -/
def Obligations.ReservedOpcodesAreIllegal : Prop :=
  ∀ (req : Word) (s : State), req.extractLsb' 30 2 = 0b00#2 ∨ req.extractLsb' 30 2 = 0b11#2 →
    ∃ any, runRequest req s = .next { s with offer := some ⟨any, .errIllegal⟩ }

/-- Rule R54: a 1 in a reserved bit of its format makes a request illegal. -/
def Obligations.ReservedBitsAreIllegal : Prop :=
  ∀ (req : Word) (s : State),
    (req.extractLsb' 30 2 = 0b01#2 ∧ req.extractLsb' 20 10 ≠ 0#10) ∨
      (req.extractLsb' 30 2 = 0b10#2 ∧ req.extractLsb' 16 14 ≠ 0#14) →
    ∃ any, runRequest req s = .next { s with offer := some ⟨any, .errIllegal⟩ }

/-- Rules R54 and R96: an element of 32 or more packed into `E3` sets a reserved bit, and one packed
into `E0`, `E1` or `E2` spills into the next field and is not detected. The bound 2^15 on `E3` is
the model's (log 13). -/
def Obligations.MispackedElementsSpillOver : Prop :=
  (∀ e0 e1 e2 e3 : Nat, e0 < 32 → e1 < 32 → e2 < 32 → 32 ≤ e3 → e3 < 2 ^ 15 → ∀ s : State,
    ∃ any, runRequest (0x40000000#32 ||| BitVec.ofNat 32 (e3 * 2 ^ 15 + e2 * 2 ^ 10 + e1 * 2 ^ 5 + e0)) s =
      .next { s with offer := some ⟨any, .errIllegal⟩ }) ∧
  (∀ e0 e1 e2 e3 : Nat, e0 < 1024 → e1 < 1024 → e2 < 1024 → e3 < 32 →
    decodeWord (0x40000000#32 ||| BitVec.ofNat 32 (e3 * 2 ^ 15) ||| BitVec.ofNat 32 (e2 * 2 ^ 10)
        ||| BitVec.ofNat 32 (e1 * 2 ^ 5) ||| BitVec.ofNat 32 e0) =
      some (.encode (BitVec.ofNat 5 e0) (BitVec.ofNat 5 (e1 ||| e0 / 32))
        (BitVec.ofNat 5 (e2 ||| e1 / 32)) (BitVec.ofNat 5 (e3 ||| e2 / 32))))

/-! ### The choice count -/

/-- Rule R70: on its domain `cc(n, r)` is the binomial coefficient C(n+r−1, r), and so the number of
size-r multisets of n values. -/
def Obligations.ChoiceCountCountsMultisets : Prop :=
  ∀ n r : Nat, n ≤ 32 → 1 ≤ r → r ≤ 4 →
    cc n r = (n + r - 1).choose r ∧ cc n r = Fintype.card (Sym (Fin n) r)

/-- Rules R72 to R80: the case values, with every division exact. -/
def Obligations.ChoiceCountDivisionsAreExact : Prop :=
  (∀ r : Nat, 1 ≤ r → r ≤ 4 →
    cc 0 r = 0 ∧ cc 1 r = 1 ∧ cc 2 r = r + 1 ∧ 2 * cc 3 r = (r + 1) * (r + 2)) ∧
  (∀ n : Nat, 4 ≤ n → n ≤ 32 →
    cc n 1 = n ∧ 2 * cc n 2 = n * (n + 1) ∧ 3 * cc n 3 = cc n 2 * (n + 2) ∧
    4 * cc n 4 = cc n 3 * (n + 3))

/-- Rules R82 and R83: choice counts grow with n, and none exceeds `cc(32, 4) = 52360`. -/
def Obligations.ChoiceCountGrowsWithinSixteenBits : Prop :=
  (∀ m n r : Nat, m < n → n ≤ 32 → 1 ≤ r → r ≤ 4 → cc m r < cc n r) ∧
  (∀ n r : Nat, n ≤ 32 → 1 ≤ r → r ≤ 4 → cc n r ≤ cc 32 4) ∧ cc 32 4 = 52360 ∧ cc 32 4 < 2 ^ 16

/-- Rules R85 and R86: the table of all 132 choice counts, and the properties the source states. -/
def Obligations.ChoiceCountTableIsExact : Prop :=
  (∀ n r : Nat, n ≤ 32 → 1 ≤ r → r ≤ 4 → tableEntry n r = some (cc n r)) ∧
  (∀ n : Nat, n ≤ 32 → cc n 1 = n) ∧ (∀ r : Nat, 1 ≤ r → r ≤ 4 → cc 0 r = 0 ∧ cc 1 r = 1) ∧
  cc 32 4 = 52360

/-- Rules R81 and R109: the intermediate products of the choice count fit 18 bits, the largest being
209440, the full product fits 21 bits, and every choice count a search probes fits 16 bits. -/
def Obligations.InternalValuesFitTheirWidths : Prop :=
  (∀ n : Nat, n ≤ 32 → cc n 2 * (n + 2) ≤ 209440 ∧ cc n 3 * (n + 3) ≤ 209440) ∧
  cc 32 3 * 35 = 209440 ∧ 209440 < 2 ^ 18 ∧
  (∀ n : Nat, n ≤ 32 → n * (n + 1) * (n + 2) * (n + 3) ≤ 1256640) ∧ 1256640 < 2 ^ 21 ∧
  (∀ (rem r k : Nat) (h : k < searchSteps.length), 2 ≤ r → r ≤ 4 →
    cc ((searchAfter rem r (searchSteps.take k)).lo + searchSteps[k]) r ≤ 46376) ∧ 46376 < 2 ^ 16

/-- Rule R87: the fixed-point division by 3 is exact on the dividends that occur for three 16-bit
constants and no other. -/
def Obligations.ReciprocalDivisionConstants : Prop :=
  (∀ n : Nat, 4 ≤ n → n ≤ 32 → 3 ∣ cc n 2 * (n + 2) ∧ cc n 2 * (n + 2) ≤ 17952) ∧
  cc 32 2 * (32 + 2) = 17952 ∧
  (∀ k : Nat, k < 2 ^ 16 →
    ((∀ n : Nat, 4 ≤ n → n ≤ 32 → reciprocalDiv3 k (cc n 2 * (n + 2)) = cc n 2 * (n + 2) / 3) ↔
      k = 0x5556 ∨ k = 0x5557 ∨ k = 0x5558)) ∧
  (∀ m : Nat, 0 < m → 3 * m < 196608 → reciprocalDiv3 0x5555 (3 * m) = m - 1) ∧
  (∀ m : Nat, 3 * m < 98304 → reciprocalDiv3 0x5556 (3 * m) = m)

/-! ### ENCODE -/

/-- Rules R57, R91, R92, R95: ENCODE completes in every state, with status OK, and its data word is
the sum of the digits of the elements in descending order. Nothing but the response is written. -/
def Obligations.EncodeRespondsWithDigitSum : Prop :=
  ∀ (e0 e1 e2 e3 : Element) (v0 v1 v2 v3 : Nat) (s : State),
    [v0, v1, v2, v3].Perm [e0.toNat, e1.toNat, e2.toNat, e3.toNat] → v1 ≤ v0 → v2 ≤ v1 → v3 ≤ v2 →
    ∃ data : Word, exec (.encode e0 e1 e2 e3) s = .next { s with offer := some ⟨data, .ok⟩ } ∧
      data.toNat = cc v0 4 + cc v1 3 + cc v2 2 + v3 ∧ data.toNat ≤ 52359

/-- Rule R93: every code lies in [0, 52359], and both ends occur. -/
def Obligations.EncodeCodesLieInRange : Prop :=
  (∀ e0 e1 e2 e3 : Element, encodeValue e0 e1 e2 e3 ≤ 52359) ∧
  encodeValue 31#5 31#5 31#5 31#5 = 52359 ∧ encodeValue 0#5 0#5 0#5 0#5 = 0

/-- Rule R94: the order of the elements does not matter. -/
def Obligations.EncodeIsPermutationInvariant : Prop :=
  ∀ (e0 e1 e2 e3 f0 f1 f2 f3 : Element) (s : State), [e0, e1, e2, e3].Perm [f0, f1, f2, f3] →
    exec (.encode e0 e1 e2 e3) s = exec (.encode f0 f1 f2 f3) s

/-- Rule R97: ENCODE is a bijection from the multisets of four elements onto [0, 52359]. -/
def Obligations.EncodeIsBijectionOntoCodes : Prop :=
  (∀ e0 e1 e2 e3 : Element, encodeValue e0 e1 e2 e3 < 52360) ∧
  (∀ e0 e1 e2 e3 f0 f1 f2 f3 : Element,
    encodeValue e0 e1 e2 e3 = encodeValue f0 f1 f2 f3 ↔ [e0, e1, e2, e3].Perm [f0, f1, f2, f3]) ∧
  (∀ code : Nat, code < 52360 → ∃ e0 e1 e2 e3 : Element, encodeValue e0 e1 e2 e3 = code) ∧
  Fintype.card (Sym (Fin 32) 4) = 52360

/-- The rows of rule R99. -/
def Obligations.EncodeCornerCases : Prop :=
  encodeValue 0#5 0#5 0#5 0#5 = 0 ∧ encodeValue 31#5 31#5 31#5 31#5 = 52359 ∧
  encodeValue 0#5 0#5 0#5 31#5 = 46376 ∧ encodeValue 1#5 1#5 1#5 1#5 = 4 ∧
  encodeValue 31#5 0#5 31#5 0#5 = 51832 ∧ encodeValue 30#5 31#5 31#5 31#5 = 52358 ∧
  encodeValue 30#5 30#5 30#5 30#5 = 46375

/-! ### DECODE -/

/-- Rule R101: DECODE of a code of 52360 or more completes with ERR_RANGE and writes nothing else;
13176 codes take this path. -/
def Obligations.DecodeOutOfRangeIsErrRange : Prop :=
  (∀ (code : Code) (s : State), 52360 ≤ code.toNat →
    ∃ any, exec (.decode code) s = .next { s with offer := some ⟨any, .errRange⟩ }) ∧
  Nat.card { code : Code // 52360 ≤ code.toNat } = 13176

/-- Rules R58, R104, R105, R106, R108: DECODE of a valid code completes in every state with status
OK. Its digits are the largest that fit, stage by stage, in descending order, and stand in the
places of rule R58. Nothing but the response is written. -/
def Obligations.DecodeRespondsWithLargestDigits : Prop :=
  ∀ (code : Code) (s : State), code.toNat < 52360 →
    ∃ (data : Word) (d0 d1 d2 d3 : Nat),
      exec (.decode code) s = .next { s with offer := some ⟨data, .ok⟩ } ∧
      data.toNat = d3 * 2 ^ 15 + d2 * 2 ^ 10 + d1 * 2 ^ 5 + d0 ∧
      IsGreatest { lo | lo < 32 ∧ cc lo 4 ≤ code.toNat } d0 ∧
      IsGreatest { lo | lo < 32 ∧ cc lo 3 ≤ code.toNat - cc d0 4 } d1 ∧
      IsGreatest { lo | lo < 32 ∧ cc lo 2 ≤ code.toNat - cc d0 4 - cc d1 3 } d2 ∧
      code.toNat = cc d0 4 + cc d1 3 + cc d2 2 + d3 ∧
      d3 ≤ d2 ∧ d2 ≤ d1 ∧ d1 ≤ d0 ∧ d0 ≤ 31

/-- Rule R104: the search returns the largest value whose choice count is at most the remainder, and
that choice count as the floor. -/
def Obligations.SearchReturnsLargestCandidate : Prop :=
  ∀ rem r : Nat, 2 ≤ r → r ≤ 4 →
    IsGreatest { lo | lo < 32 ∧ cc lo r ≤ rem } (search rem r).lo ∧
    (search rem r).floor = cc (search rem r).lo r ∧ (search rem r).floor ≤ rem

/-- Rules R84 and R103: every candidate the search probes is in 1 to 31, so the choice count is never
evaluated outside its domain. -/
def Obligations.SearchProbesStayInDomain : Prop :=
  ∀ (rem r k : Nat) (h : k < searchSteps.length), 2 ≤ r → r ≤ 4 →
    1 ≤ (searchAfter rem r (searchSteps.take k)).lo + searchSteps[k] ∧
    (searchAfter rem r (searchSteps.take k)).lo + searchSteps[k] ≤ 31

/-- Rule R111: without the range check the digits of a code of 52360 or more would not fit; the block
answers such a code with ERR_RANGE instead. -/
def Obligations.OutOfRangeDigitsWouldNotFit : Prop :=
  (∀ code : Nat, 52360 ≤ code → 32 ≤ (decodeDigits code).v3) ∧
  decodeDigits 52360 = ⟨31, 31, 31, 32⟩ ∧
  ∀ (code : Code) (s : State), 52360 ≤ code.toNat →
    ∃ any, exec (.decode code) s = .next { s with offer := some ⟨any, .errRange⟩ }

/-- The rows of rule R110. -/
def Obligations.DecodeCornerCases : Prop :=
  ∀ any : Word,
    decodeResponse 0#16 any = ⟨0x00000000#32, .ok⟩ ∧ decodeResponse 1#16 any = ⟨0x00000001#32, .ok⟩ ∧
    decodeResponse 4#16 any = ⟨0x00008421#32, .ok⟩ ∧
    decodeResponse 46375#16 any = ⟨0x000F7BDE#32, .ok⟩ ∧
    decodeResponse 46376#16 any = ⟨0x0000001F#32, .ok⟩ ∧
    decodeResponse 52359#16 any = ⟨0x000FFFFF#32, .ok⟩ ∧
    (decodeResponse 52360#16 any).status = .errRange ∧ (decodeResponse 65535#16 any).status = .errRange

/-- Rule R107, both round-trip laws, through the machine's own responses: DECODE of the code of four
elements gives the elements in descending order, and ENCODE of the digits of a valid code gives
the code. -/
def Obligations.EncodeAndDecodeAreInverse : Prop :=
  (∀ (e0 e1 e2 e3 : Element) (v0 v1 v2 v3 : Nat) (s t : State),
    [v0, v1, v2, v3].Perm [e0.toNat, e1.toNat, e2.toNat, e3.toNat] → v1 ≤ v0 → v2 ≤ v1 → v3 ≤ v2 →
    ∃ coded digits : Word,
      exec (.encode e0 e1 e2 e3) s = .next { s with offer := some ⟨coded, .ok⟩ } ∧
      coded.toNat < 2 ^ 16 ∧
      exec (.decode (coded.setWidth 16)) t = .next { t with offer := some ⟨digits, .ok⟩ } ∧
      digits.toNat = v3 * 2 ^ 15 + v2 * 2 ^ 10 + v1 * 2 ^ 5 + v0) ∧
  (∀ (code : Code) (s t : State), code.toNat < 52360 →
    ∃ digits coded : Word,
      exec (.decode code) s = .next { s with offer := some ⟨digits, .ok⟩ } ∧
      exec (.encode (digits.extractLsb' 0 5) (digits.extractLsb' 5 5) (digits.extractLsb' 10 5)
        (digits.extractLsb' 15 5)) t = .next { t with offer := some ⟨coded, .ok⟩ } ∧
      coded.toNat = code.toNat)

/-- Rule R64: the data word of an OK DECODE response, ORed with `0x40000000`, is a legal ENCODE
request whose response is the original code. -/
def Obligations.DecodedDataReencodes : Prop :=
  ∀ (code : Code) (s t u : State) (digits : Word),
    exec (.decode code) s = .next t → t.offer = some ⟨digits, .ok⟩ →
    (∃ e0 e1 e2 e3, decodeWord (digits ||| 0x40000000#32) = some (.encode e0 e1 e2 e3)) ∧
    ∃ coded : Word, runRequest (digits ||| 0x40000000#32) u = .next { u with offer := some ⟨coded, .ok⟩ } ∧
      coded.toNat = code.toNat

/-! ### Statuses and what a request leaves unchanged -/

/-- Rules R56 and R124: the values of `rsp_status`, and that a valid response never carries
`0b11`. -/
def Obligations.StatusElevenIsNeverProduced : Prop :=
  Status.ok.bits = 0b00#2 ∧ Status.errRange.bits = 0b01#2 ∧ Status.errIllegal.bits = 0b10#2 ∧
  (∀ st : Status, Status.ofBits st.bits = some st) ∧ Status.ofBits 0b11#2 = none ∧
  ∀ s : State, s.rspValid = true → s.rspStatus ≠ 0b11#2

/-- Rule R125: a request that meets the conditions of both errors gets ERR_ILLEGAL. -/
def Obligations.IllegalComesBeforeRange : Prop :=
  (∀ (req : Word) (s : State), req.extractLsb' 30 2 = 0b10#2 → req.extractLsb' 16 14 ≠ 0#14 →
    52360 ≤ (req.extractLsb' 0 16).toNat →
    ∃ any, runRequest req s = .next { s with offer := some ⟨any, .errIllegal⟩ }) ∧
  ∀ s : State, ∃ any, runRequest 0x8001CC88#32 s = .next { s with offer := some ⟨any, .errIllegal⟩ }

/-- Rules R61, R121, R122, R123, R135: every word gets exactly one response, and its status is
ERR_ILLEGAL, ERR_RANGE or OK exactly where the rules say, read from the word's bits. -/
def Obligations.EveryWordGetsItsStatus : Prop :=
  ∀ (req : Word) (s : State), ∃ rsp : Response,
    runRequest req s = .next { s with offer := some rsp } ∧
    (rsp.status = .errIllegal ↔
      req.extractLsb' 30 2 = 0b00#2 ∨ req.extractLsb' 30 2 = 0b11#2 ∨
      (req.extractLsb' 30 2 = 0b01#2 ∧ req.extractLsb' 20 10 ≠ 0#10) ∨
      (req.extractLsb' 30 2 = 0b10#2 ∧ req.extractLsb' 16 14 ≠ 0#14)) ∧
    (rsp.status = .errRange ↔
      req.extractLsb' 30 2 = 0b10#2 ∧ req.extractLsb' 16 14 = 0#14 ∧ 52360 ≤ (req.extractLsb' 0 16).toNat) ∧
    (rsp.status = .ok ↔
      (req.extractLsb' 30 2 = 0b01#2 ∧ req.extractLsb' 20 10 = 0#10) ∨
      (req.extractLsb' 30 2 = 0b10#2 ∧ req.extractLsb' 16 14 = 0#14 ∧ (req.extractLsb' 0 16).toNat < 52360))

/-- The frame of both operations (R15, R95, R120): queue, delay, past edges, host and
observation stay; only the response is written, and it is then on offer. -/
def Obligations.OperationsWriteOnlyTheirResponse : Prop :=
  ∀ (i : Instr) (s t : State), exec i s = .next t →
    t.queue = s.queue ∧ t.wait = s.wait ∧ t.past = s.past ∧ t.host = s.host ∧ t.trace = s.trace ∧
    t.rspValid = true

/-- Rule R32: the response to a request depends on the request word alone, but for the draw of an
error response. -/
def Obligations.ResponseDependsOnWordAlone : Prop :=
  ∀ (req : Word) (s t : State), ∃ a b : Response,
    runRequest req s = .next { s with offer := some a } ∧
    runRequest req t = .next { t with offer := some b } ∧
    a.status = b.status ∧ (a.status = .ok → a.data = b.data)

/-! ### Clock edges -/

/-- Rule R120: nothing stops the block; every edge leads to a next state. -/
def Obligations.EveryStepIsSafe : Prop := ∀ s : State, s.StepsSafely

/-- Rules R29 and R61: when the head of the queue is due after an edge's handshakes, the step is the
operation it decodes to, run on the state after the handshakes; a head that decodes to none
raises ERR_ILLEGAL there. -/
def Obligations.StepRunsTheDecodedRequest : Prop :=
  ∀ (s : State) (req : Word) (rest : List Word), s.drive.rst = false → s.handshake.offer = none →
    s.handshake.queue = req :: rest → s.handshake.delay = 0 →
    (∀ i : Instr, i.wf = true → decodeWord req = some i → step s = exec i s.handshake) ∧
    (decodeWord req = none → step s = .next (s.handshake.raise .errIllegal))

/-- Rules R29 and R30: where no request is due after the handshakes, the edge is the handshakes
alone, less one edge of delay if a request waits. The countdown is the model's (log 3). -/
def Obligations.StepOtherwiseOnlyHandshakes : Prop :=
  ∀ s : State, s.drive.rst = false →
    ((∃ rsp, s.handshake.offer = some rsp) ∨ s.handshake.queue = [] → step s = .next s.handshake) ∧
    ∀ (req : Word) (rest : List Word) (n : Nat), s.handshake.offer = none →
      s.handshake.queue = req :: rest → s.handshake.delay = n + 1 →
      step s = .next { s.handshake with wait := some n }

/-- A request word placed at the head of the queue, due at once, is run by the very next step
(log 11). -/
def Obligations.PlacedWordRunsNext : Prop :=
  ∀ (s : State) (w : Nat), w < 2 ^ 32 →
    step (s.withFetchWord 32 w) = runRequest (BitVec.ofNat 32 w) (s.withFetchWord 32 w).handshake

/-- Rules R27 and R28: what is accepted and what is transferred at an edge, in the queue and in the
observation, for every combination of the port signals. In which of the two orders an acceptance
and a transfer at one edge are noted is left open (log 1, log 7). -/
def Obligations.EdgeAcceptsAndTransfers : Prop :=
  ∀ s : State, ∃ (t : State) (left : List Response), step s = .next t ∧
    acceptedOf t.trace = acceptedOf s.trace ++
      (if s.drive.rst = false ∧ s.drive.reqValid = true ∧ s.reqReady = true then [s.drive.reqData] else []) ∧
    deliveredOf t.trace = deliveredOf s.trace ++ left ∧
    (s.drive.rst = false ∧ s.rspValid = true ∧ s.drive.rspReady = true →
      ∃ rsp : Response, left = [rsp] ∧ rsp.data = s.rspData ∧ rsp.status.bits = s.rspStatus) ∧
    (¬(s.drive.rst = false ∧ s.rspValid = true ∧ s.drive.rspReady = true) → left = []) ∧
    (s.drive.rst = false →
      t.queue = (if s.rspValid = true ∧ s.drive.rspReady = true then s.queue.tail else s.queue) ++
        (if s.drive.reqValid = true ∧ s.reqReady = true then [s.drive.reqData] else []))

/-- Rule R31: `req_ready` is 1 exactly when there is room, whatever the host offers, and nothing is
transferred on either channel while `rst = 1`. -/
def Obligations.ReqReadyExactlyWhenRoom : Prop :=
  ∀ s : State,
    (s.drive.rst = false → (s.reqReady = true ↔ s.queue.length < Config.capacity)) ∧
    (∀ (d : Drive) (ds : List Drive) (valid : Bool) (data : Word), s.host = d :: ds →
      ({ s with host := { d with reqValid := valid, reqData := data } :: ds } : State).reqReady = s.reqReady) ∧
    (s.drive.rst = true → s.accepts = false ∧ s.transfers = false)

/-- Rule R153: neither channel's outputs depend on the other side's signals of the same cycle. -/
def Obligations.HandshakesDoNotWaitOnEachOther : Prop :=
  ∀ (s : State) (d : Drive) (ds : List Drive) (valid ready : Bool) (data : Word), s.host = d :: ds →
    ({ s with host := { d with reqValid := valid, reqData := data } :: ds } : State).reqReady = s.reqReady ∧
    ({ s with host := { d with rspReady := ready } :: ds } : State).rspValid = s.rspValid ∧
    ({ s with host := { d with rspReady := ready } :: ds } : State).rspData = s.rspData ∧
    ({ s with host := { d with rspReady := ready } :: ds } : State).rspStatus = s.rspStatus

/-- Rule R148: a response on offer stays, unchanged, until it is transferred or a reset edge
occurs. -/
def Obligations.OfferStaysUntilTakenOrReset : Prop :=
  ∀ s : State, s.rspValid = true → s.drive.rst = false → s.drive.rspReady = false →
    ∃ t, step s = .next t ∧ t.rspValid = true ∧ t.rspData = s.rspData ∧ t.rspStatus = s.rspStatus

/-- Rules R141 and R143: a reset edge drops everything in flight with no response, transfers nothing
on either channel, and leaves a block that is ready in its first cycle with `rst = 0`. -/
def Obligations.ResetEdgeDropsEverything : Prop :=
  ∀ s : State, s.drive.rst = true →
    ∃ t, step s = .next t ∧ t.queue = [] ∧ t.rspValid = false ∧ t.trace = s.trace ++ [.reset] ∧
      (t.drive.rst = false → t.reqReady = true)

/-- Rule R35: the values after reset, whatever the host drives next. -/
def Obligations.ResetStateIsReady : Prop :=
  State.reset.queue = [] ∧ State.reset.rspValid = false ∧
  ∀ host : List Drive, ({ State.reset with host := host } : State).drive.rst = false →
    ({ State.reset with host := host } : State).reqReady = true

/-- Rules R43 and R147: an offer that is not accepted has no effect, whatever its word. That the free
values of the two steps are equal too is how the model reads "no effect": such an offer leaves no
mark in what they are drawn from (log 8). -/
def Obligations.UnacceptedOfferHasNoEffect : Prop :=
  ∀ (s : State) (d : Drive) (ds : List Drive) (data : Word), s.host = d :: ds → s.accepts = false →
    step { s with host := { d with reqValid := false, reqData := data } :: ds } = step s

/-- Rule R30: a response is never offered before its request has been accepted, so an edge that
finds the queue empty transfers nothing. -/
def Obligations.NothingLeavesAnEmptyQueue : Prop :=
  ∀ s : State, s.ChannelInv → s.queue = [] →
    s.rspValid = false ∧ ∃ t, step s = .next t ∧ deliveredOf t.trace = deliveredOf s.trace

/-! ### Invariants, ordering, refinement -/

/-- The channel invariant (R26, R29) holds at reset. -/
def Obligations.ResetMeetsChannelInvariant : Prop := State.reset.ChannelInv

/-- Rules R26 and R29: every step keeps the channel invariant: never more than CAPACITY requests in
flight, and a response on offer is `Exec` of the head of the queue. -/
def Obligations.StepKeepsChannelInvariant : Prop :=
  ∀ s t : State, s.ChannelInv → step s = .next t → t.ChannelInv

/-- Rule R33: every step of the machine is a sequence of transitions Accept, Deliver and Reset of the
transition system over `Q`, and shows exactly their events. -/
def Obligations.StepRefinesTransitionSystem : Prop :=
  ∀ s t : State, s.ChannelInv → step s = .next t →
    ∃ es, t.trace = s.trace ++ es ∧ Transitions s.queue es t.queue

/-- Rule R33: every transition enabled in a queue is one that some step of the machine takes from a
state with that queue. -/
def Obligations.EveryTransitionIsTaken : Prop :=
  ∀ (q : List Word) (e : Event) (q' : List Word), q.length ≤ Config.capacity → Transition q e q' →
    ∃ s t : State, s.ChannelInv ∧ s.queue = q ∧ step s = .next t ∧ t.queue = q' ∧
      t.trace = s.trace ++ [e]

/-- Rule R33: an acceptance and a transfer at the same edge commute, but for the order in which they
are written down. -/
def Obligations.AcceptAndDeliverCommute : Prop :=
  ∀ (s : State) (req : Word), s.rspValid = true → s.queue ≠ [] →
    (s.deliver.accept req).queue = (s.accept req).deliver.queue ∧
    (s.deliver.accept req).offer = (s.accept req).deliver.offer ∧
    (s.deliver.accept req).wait = (s.accept req).deliver.wait ∧
    (s.deliver.accept req).past = (s.accept req).deliver.past ∧
    (s.deliver.accept req).host = (s.accept req).deliver.host

/-- At reset nothing has been accepted or transferred (R45). -/
def Obligations.ResetIsInOrder : Prop := State.reset.InOrder

/-- Rule R45: every step keeps the order of responses: since the last reset edge the k-th response
transferred is `Exec` of the k-th request accepted, exactly one per request. -/
def Obligations.ResponsesKeepRequestOrder : Prop :=
  ∀ s t : State, s.ChannelInv → s.InOrder → step s = .next t → t.InOrder

/-- Rules R26, R29, R33 and R45 along every run from reset: whatever the host drives after reset, and
after any number of edges, the observation is a run of the transition system of rule R33 from the
empty queue to the queue of the block, and both invariants hold. Past the end of its list the host
is idle (log 2), and the observation is empty at reset (log 7). -/
def Obligations.EveryRunFollowsTransitionSystem : Prop :=
  ∀ (host : List Drive) (n : Nat) (t : State), core.run n ({ State.reset with host := host } : State) = .next t →
    Transitions [] t.trace t.queue ∧ t.ChannelInv ∧ t.InOrder

/-- After rule R127, errors are not sticky: two states that differ only in the response on offer go on
alike, and once that response is gone nothing of the difference is left. What R127 and R32 give is
the status of the next response and, if it is OK, its data word. That the next `ANY32` (log 5) and
the delays (log 3) are equal too is the model's choice: free values are drawn from what the block
has seen (log 8), which is the same in both states. -/
def Obligations.ErrorsAreNotSticky : Prop :=
  ∀ s t s' : State, s.SameButResponse t → step s = .next s' →
    ∃ t', step t = .next t' ∧ s'.SameButResponse t' ∧
      (s.offer = none ∨ s.transfers = true → s'.offer = t'.offer)

/-! ### Liveness and back-pressure -/

/-- Rules R30 and R151: with a request in flight and no reset edge, `rsp_valid` becomes 1 within
finite time, whatever else the host drives. No number of edges is named. -/
def Obligations.HeadIsAnsweredInFiniteTime : Prop :=
  ∀ s : State, s.queue ≠ [] → ∃ n : Nat, ∀ host : List Drive, (∀ d ∈ host.take n, d.rst = false) →
    ∃ k ≤ n, ∃ t : State, core.run k ({ s with host := host } : State) = .next t ∧ t.rspValid = true

/-- Rule R151: if the host then holds `rsp_ready = 1` and does not reset, every request in flight is
answered within finite time, whatever else the host offers meanwhile. -/
def Obligations.EveryRequestInFlightIsAnswered : Prop :=
  ∀ s : State, ∃ n : Nat, ∀ host : List Drive, n ≤ host.length →
    (∀ d ∈ host, d.rst = false ∧ d.rspReady = true) →
    ∃ t : State, core.run n ({ s with host := host } : State) = .next t ∧
      s.queue.length ≤ (deliveredOf (t.trace.drop s.trace.length)).length

/-- Rule R151, liveness as weak fairness of `Deliver` over the transition system of rule R33. The block
offers a response whenever requests stay in flight; if the host takes responses again and again,
what an infinite run shows is a weakly fair behaviour; and in every weakly fair behaviour without
a reset all requests in flight are answered, in order. -/
def Obligations.DeliverIsWeaklyFair : Prop :=
  (∀ (drives : Nat → Drive) (run : Nat → State), InfiniteRun drives run →
    ∀ m, (∀ n, m ≤ n → (run n).queue ≠ []) → ∃ n, m ≤ n ∧ (run n).rspValid = true) ∧
  (∀ (drives : Nat → Drive) (run : Nat → State), InfiniteRun drives run → (run 0).ChannelInv →
    (∀ m, ∃ n, m ≤ n ∧ (drives n).rspReady = true) →
    ∃ shown : Nat → List Event, (∀ n, (run (n + 1)).trace = (run n).trace ++ shown n) ∧
      Behaviour (fun n => (run n).queue) shown ∧ WeaklyFairDeliver (fun n => (run n).queue) shown) ∧
  (∀ (q : Nat → List Word) (shown : Nat → List Event), Behaviour q shown → WeaklyFairDeliver q shown →
    ∀ m, (∀ n, m ≤ n → Event.reset ∉ shown n) →
    ∃ (n : Nat) (answered later : List Response),
      deliveredOf ((List.range n).flatMap fun k => shown (m + k)) = answered ++ later ∧
      List.Forall₂ (fun req rsp => ∃ any, rsp = responseOf req any) (q m) answered)

/-- Rule R152: while the host holds `rsp_ready = 0`, no response leaves and no request is dropped; if
it goes on offering requests the queue fills up to CAPACITY, and then `req_ready = 0`. -/
def Obligations.BackpressureFillsTheQueue : Prop :=
  ∀ (s : State) (n : Nat), s.queue.length ≤ Config.capacity → n ≤ s.host.length →
    (∀ d ∈ s.host.take n, d.rst = false ∧ d.reqValid = true ∧ d.rspReady = false) →
    ∃ t : State, core.run n s = .next t ∧ deliveredOf t.trace = deliveredOf s.trace ∧
      s.queue <+: t.queue ∧ t.queue.length = min Config.capacity (s.queue.length + n) ∧
      (Config.capacity ≤ s.queue.length + n → t.drive.rst = false → t.reqReady = false)

/-! ### Assembler -/

/-- Rules R65 and R66: the words of source lines, and what the assembler refuses. The bound on
`.word` is the model's (log 12). -/
def Obligations.AssemblerFollowsFormats : Prop :=
  (∀ e0 e1 e2 e3 : Nat, e0 ≤ 31 → e1 ≤ 31 → e2 ≤ 31 → e3 ≤ 31 →
    ∃ req : Word, assemble (.encode e0 e1 e2 e3) = some req ∧
      req.toNat = 2 ^ 30 + e3 * 2 ^ 15 + e2 * 2 ^ 10 + e1 * 2 ^ 5 + e0) ∧
  (∀ e0 e1 e2 e3 : Nat, 31 < e0 ∨ 31 < e1 ∨ 31 < e2 ∨ 31 < e3 → assemble (.encode e0 e1 e2 e3) = none) ∧
  (∀ code : Nat, code ≤ 65535 →
    ∃ req : Word, assemble (.decode code) = some req ∧ req.toNat = 2 ^ 31 + code) ∧
  (∀ code : Nat, 65535 < code → assemble (.decode code) = none) ∧
  (∀ w : Nat, w < 2 ^ 32 → ∃ req : Word, assemble (.word w) = some req ∧ req.toNat = w) ∧
  (∀ w : Nat, 2 ^ 32 ≤ w → assemble (.word w) = none)

/-- Rules R52, R53 and R65: the assembler's formulas and the formats' bit patterns give the same
word for every operation. -/
def Obligations.AssemblerAgreesWithEncoder : Prop :=
  ∀ i : Instr, assemble i.source = some (encodeWord i)

/-- Rule R65: the lines of its example assemble to the words it gives. -/
def Obligations.AssemblerReadsTheExampleLines : Prop :=
  assembleText "ENCODE 11, 22, 9, 30 ; rank\nDECODE 43019\n.word 0x00000000".toList =
    some [0x400F26CB#32, 0x8000A80B#32, 0x00000000#32]
end

