-- ==== Sys2Proof/Laws/ChoiceCount.lean ====
section
/-! SUPPORT. The choice counts on their domain, the sort, one probe of the search, and the placement
of results in a word. -/

namespace Sys2Proof.Machine

/-- On its domain `cc` is the case algorithm of rules R72 to R79. -/
theorem cc_of_domain {n r : Nat} (hn : n ≤ 32) (h1 : 1 ≤ r) (h4 : r ≤ 4) : cc n r = ccCases n r := by
  simp [cc, hn, h1, h4]

/-- Every row of the table of rule R85 has four entries. -/
theorem choiceCountTable_row_length : ∀ row ∈ choiceCountTable, row.length = 4 := by decide +kernel

/-- The table of rule R85 has an entry exactly on the domain of `cc`; outside it the model gives no
number (log 10). -/
theorem tableEntry_isSome_iff {n r : Nat} :
    (tableEntry n r).isSome ↔ n ≤ 32 ∧ 1 ≤ r ∧ r ≤ 4 := by
  cases r with
  | zero => simp [tableEntry]
  | succ k =>
    have hlen : choiceCountTable.length = 33 := by decide +kernel
    by_cases hn : n < choiceCountTable.length
    · have hrow := choiceCountTable_row_length _ (List.getElem_mem hn)
      simp [tableEntry, List.getElem?_eq_getElem hn, hrow]; omega
    · simp [tableEntry, List.getElem?_eq_none (by omega : choiceCountTable.length ≤ n)]; omega

/-- The closed form of rule R70 at each of the 132 points (R89). -/
theorem ccCases_eq_choose :
    ∀ n ∈ List.range 33, ∀ r ∈ [1, 2, 3, 4], ccCases n r = (n + r - 1).choose r := by
  decide +kernel

theorem cc_eq_choose {n r : Nat} (hn : n ≤ 32) (h1 : 1 ≤ r) (h4 : r ≤ 4) :
    cc n r = (n + r - 1).choose r := by
  rw [cc_of_domain hn h1 h4]
  exact ccCases_eq_choose n (by simp; omega) r (by simp; omega)

theorem cc_zero {r : Nat} (h1 : 1 ≤ r) (h4 : r ≤ 4) : cc 0 r = 0 := by
  simp [cc, h1, h4, ccCases]

/-- The last digit needs no choice count (R98). -/
theorem cc_one {n : Nat} (hn : n ≤ 32) : cc n 1 = n := by
  rw [cc_eq_choose hn le_rfl (by decide)]; simp

/-- The range check compares against `cc(32, 4)` (R8, R101). -/
theorem nCodes_eq_cc : nCodes = cc 32 4 := by decide +kernel

section sort
variable (a b c d : Nat)

theorem sortDesc_descending : (sortDesc a b c d).Descending := by
  simp only [Quad.Descending, sortDesc]; omega

/-- The sort's four values, counted: it is a permutation (R91). -/
theorem sortDesc_count (x : Nat) : (sortDesc a b c d).toList.count x = [a, b, c, d].count x := by
  simp only [Quad.toList, sortDesc, List.count_cons, List.count_nil, beq_iff_eq]
  rcases le_total a b with h1 | h1 <;> rcases le_total c d with h2 | h2 <;>
    rcases le_total (max a b) (max c d) with h3 | h3 <;>
    rcases le_total (min a b) (min c d) with h4 | h4 <;>
    rcases le_total (min (max a b) (max c d)) (max (min a b) (min c d)) with h5 | h5 <;>
    simp only [h1, h2, max_eq_left, max_eq_right, min_eq_left, min_eq_right] at h3 h4 h5 ⊢ <;>
    simp only [h3, h4, max_eq_left, max_eq_right, min_eq_left, min_eq_right] at h5 ⊢ <;>
    simp only [h5, max_eq_left, max_eq_right, min_eq_left, min_eq_right] <;> omega

theorem sortDesc_perm : (sortDesc a b c d).toList.Perm [a, b, c, d] :=
  List.perm_iff_count.mpr (sortDesc_count a b c d)

end sort

/-- One probe either moves `lo` up to the candidate or stays (R103). -/
theorem probe_cases (rem r step : Nat) (st : SearchState) :
    (cc (st.lo + step) r ≤ rem ∧ probe rem r st step = ⟨st.lo + step, cc (st.lo + step) r⟩) ∨
    (rem < cc (st.lo + step) r ∧ probe rem r st step = st) := by
  by_cases h : cc (st.lo + step) r ≤ rem
  · exact .inl ⟨h, by simp [probe, h]⟩
  · exact .inr ⟨by omega, by simp [probe, h]⟩

/-- The value of an OK ENCODE data word is the code (R57). -/
theorem codeData_toNat {code : Nat} (h : code < 65536) : (codeData code).toNat = code := by
  simp [codeData]; omega

/-- The value of an OK DECODE data word, by the places of rule R58. -/
theorem digitData_toNat {q : Quad} (h0 : q.v0 < 32) (h1 : q.v1 < 32) (h2 : q.v2 < 32) (h3 : q.v3 < 32) :
    (digitData q).toNat = q.v3 * 2 ^ 15 + q.v2 * 2 ^ 10 + q.v1 * 2 ^ 5 + q.v0 := by
  simp only [digitData, BitVec.toNat_append, BitVec.toNat_ofNat]
  rw [Nat.mod_eq_of_lt (by omega : q.v0 < 2 ^ 5), Nat.mod_eq_of_lt (by omega : q.v1 < 2 ^ 5),
    Nat.mod_eq_of_lt (by omega : q.v2 < 2 ^ 5), Nat.mod_eq_of_lt (by omega : q.v3 < 2 ^ 5)]
  rw [← Nat.shiftLeft_add_eq_or_of_lt (i := 5) h0, ← Nat.shiftLeft_add_eq_or_of_lt (i := 5) h1,
    ← Nat.shiftLeft_add_eq_or_of_lt (i := 5) h2, ← Nat.shiftLeft_add_eq_or_of_lt (i := 5) h3]
  simp only [Nat.shiftLeft_eq]
  omega

end Sys2Proof.Machine
end

