-- ==== Sys2Proof/Laws/PerInstr.lean ====
section
/-! SUPPORT. Statements about every operation as syntax, one lemma per constructor. -/

namespace Sys2Proof.Laws

/-- Every operation is well formed: its operands have the widths of their fields (R96). -/
def WellFormed.Statement (i : Instr) : Prop := i.wf = true

theorem WellFormed.encode (e0 e1 e2 e3 : Element) : WellFormed.Statement (.encode e0 e1 e2 e3) := by
  have h (e : Element) : e.toNat ≤ 31 := Nat.le_of_lt_succ e.isLt
  simp [WellFormed.Statement, Instr.wf, Instr.source, SourceLine.wf, h]

theorem WellFormed.decode (code : Code) : WellFormed.Statement (.decode code) := by
  have h : code.toNat ≤ 65535 := Nat.le_of_lt_succ code.isLt
  simp [WellFormed.Statement, Instr.wf, Instr.source, SourceLine.wf, h]

end Sys2Proof.Laws
end

