-- ==== Sys2Proof/Laws/Codec.lean ====
section
/-! SUPPORT. Request words as numbers: the value of each field of a word, and the value of the word of
each operation. -/

namespace Sys2Proof

section fields
variable (req : Word)

theorem opField_toNat : (opField req).toNat = req.toNat / 2 ^ 30 % 2 ^ 2 := by
  simp [opField, BitVec.extractLsb'_toNat, Nat.shiftRight_eq_div_pow]
theorem encodeReserved_toNat : (encodeReserved req).toNat = req.toNat / 2 ^ 20 % 2 ^ 10 := by
  simp [encodeReserved, BitVec.extractLsb'_toNat, Nat.shiftRight_eq_div_pow]
theorem decodeReserved_toNat : (decodeReserved req).toNat = req.toNat / 2 ^ 16 % 2 ^ 14 := by
  simp [decodeReserved, BitVec.extractLsb'_toNat, Nat.shiftRight_eq_div_pow]
theorem e0Field_toNat : (e0Field req).toNat = req.toNat % 2 ^ 5 := by
  simp [e0Field, BitVec.extractLsb'_toNat]
theorem e1Field_toNat : (e1Field req).toNat = req.toNat / 2 ^ 5 % 2 ^ 5 := by
  simp [e1Field, BitVec.extractLsb'_toNat, Nat.shiftRight_eq_div_pow]
theorem e2Field_toNat : (e2Field req).toNat = req.toNat / 2 ^ 10 % 2 ^ 5 := by
  simp [e2Field, BitVec.extractLsb'_toNat, Nat.shiftRight_eq_div_pow]
theorem e3Field_toNat : (e3Field req).toNat = req.toNat / 2 ^ 15 % 2 ^ 5 := by
  simp [e3Field, BitVec.extractLsb'_toNat, Nat.shiftRight_eq_div_pow]
theorem codeField_toNat : (codeField req).toNat = req.toNat % 2 ^ 16 := by
  simp [codeField, BitVec.extractLsb'_toNat]

end fields

/-- The word of ENCODE, by the places of rule R52. -/
theorem encodeWord_encode_toNat (e0 e1 e2 e3 : Element) :
    (encodeWord (.encode e0 e1 e2 e3)).toNat =
      2 ^ 30 + e3.toNat * 2 ^ 15 + e2.toNat * 2 ^ 10 + e1.toNat * 2 ^ 5 + e0.toNat := by
  have h0 := e0.isLt
  have h1 := e1.isLt
  have h2 := e2.isLt
  have h3 := e3.isLt
  simp only [encodeWord, BitVec.toNat_append, BitVec.toNat_ofNat]
  rw [← Nat.shiftLeft_add_eq_or_of_lt (i := 5) h0, ← Nat.shiftLeft_add_eq_or_of_lt (i := 5) h1,
    ← Nat.shiftLeft_add_eq_or_of_lt (i := 5) h2, ← Nat.shiftLeft_add_eq_or_of_lt (i := 5) h3]
  simp only [Nat.shiftLeft_eq]
  norm_num
  omega

/-- The word of DECODE, by the places of rule R53. -/
theorem encodeWord_decode_toNat (code : Code) :
    (encodeWord (.decode code)).toNat = 2 ^ 31 + code.toNat := by
  have h0 := code.isLt
  simp only [encodeWord, BitVec.toNat_append, BitVec.toNat_ofNat]
  rw [← Nat.shiftLeft_add_eq_or_of_lt (i := 16) h0]
  simp only [Nat.shiftLeft_eq]
  norm_num

end Sys2Proof
end

