-- ==== Sys2Proof/Laws/State.lean ====
section
/-! SUPPORT. What each update of the state leaves in each field, so that no later proof unfolds a
record update. -/

namespace Sys2Proof.Machine

section reset
@[simp] theorem reset_queue : State.reset.queue = [] := rfl
@[simp] theorem reset_offer : State.reset.offer = none := rfl
@[simp] theorem reset_wait : State.reset.wait = none := rfl
@[simp] theorem reset_past : State.reset.past = [] := rfl
@[simp] theorem reset_host : State.reset.host = [] := rfl
@[simp] theorem reset_trace : State.reset.trace = [] := rfl
end reset

section respond
variable (s : State) (r : Response)
@[simp] theorem respond_queue : (s.respond r).queue = s.queue := rfl
@[simp] theorem respond_offer : (s.respond r).offer = some r := rfl
@[simp] theorem respond_wait : (s.respond r).wait = s.wait := rfl
@[simp] theorem respond_past : (s.respond r).past = s.past := rfl
@[simp] theorem respond_host : (s.respond r).host = s.host := rfl
@[simp] theorem respond_trace : (s.respond r).trace = s.trace := rfl
end respond

section raise
variable (s : State) (e : Status)
@[simp] theorem raise_queue : (s.raise e).queue = s.queue := rfl
@[simp] theorem raise_offer : (s.raise e).offer = some ⟨s.any32, e⟩ := rfl
@[simp] theorem raise_wait : (s.raise e).wait = s.wait := rfl
@[simp] theorem raise_past : (s.raise e).past = s.past := rfl
@[simp] theorem raise_host : (s.raise e).host = s.host := rfl
@[simp] theorem raise_trace : (s.raise e).trace = s.trace := rfl
end raise

section accept
variable (s : State) (req : Word)
@[simp] theorem accept_queue : (s.accept req).queue = s.queue ++ [req] := rfl
@[simp] theorem accept_offer : (s.accept req).offer = s.offer := rfl
@[simp] theorem accept_wait : (s.accept req).wait = s.wait := rfl
@[simp] theorem accept_past : (s.accept req).past = s.past := rfl
@[simp] theorem accept_host : (s.accept req).host = s.host := rfl
@[simp] theorem accept_trace : (s.accept req).trace = s.trace ++ [.accept req] := rfl
end accept

section deliver
variable {s : State} {r : Response}
theorem deliver_of_some (h : s.offer = some r) :
    s.deliver = { s with
      queue := s.queue.tail
      offer := none
      wait := none
      trace := s.trace ++ [.deliver r] } := by
  simp [State.deliver, h]
@[simp] theorem deliver_of_none (h : s.offer = none) : s.deliver = s := by simp [State.deliver, h]
@[simp] theorem deliver_queue (h : s.offer = some r) : s.deliver.queue = s.queue.tail := by
  rw [deliver_of_some h]
@[simp] theorem deliver_offer (h : s.offer = some r) : s.deliver.offer = none := by
  rw [deliver_of_some h]
@[simp] theorem deliver_wait (h : s.offer = some r) : s.deliver.wait = none := by
  rw [deliver_of_some h]
@[simp] theorem deliver_trace (h : s.offer = some r) : s.deliver.trace = s.trace ++ [.deliver r] := by
  rw [deliver_of_some h]
@[simp] theorem deliver_past : s.deliver.past = s.past := by unfold State.deliver; split <;> rfl
@[simp] theorem deliver_host : s.deliver.host = s.host := by unfold State.deliver; split <;> rfl
end deliver

section dropAll
variable (s : State)
@[simp] theorem dropAll_queue : s.dropAll.queue = [] := rfl
@[simp] theorem dropAll_offer : s.dropAll.offer = none := rfl
@[simp] theorem dropAll_wait : s.dropAll.wait = none := rfl
@[simp] theorem dropAll_past : s.dropAll.past = s.past := rfl
@[simp] theorem dropAll_host : s.dropAll.host = s.host := rfl
@[simp] theorem dropAll_trace : s.dropAll.trace = s.trace ++ [.reset] := rfl
end dropAll

section nextCycle
variable (s : State)
@[simp] theorem nextCycle_queue : s.nextCycle.queue = s.queue := rfl
@[simp] theorem nextCycle_offer : s.nextCycle.offer = s.offer := rfl
@[simp] theorem nextCycle_wait : s.nextCycle.wait = s.wait := rfl
@[simp] theorem nextCycle_past : s.nextCycle.past = s.edge :: s.past := rfl
@[simp] theorem nextCycle_host : s.nextCycle.host = s.host.tail := rfl
@[simp] theorem nextCycle_trace : s.nextCycle.trace = s.trace := rfl
end nextCycle

section resetEdge
variable (s : State)
@[simp] theorem resetEdge_queue : s.resetEdge.queue = [] := rfl
@[simp] theorem resetEdge_offer : s.resetEdge.offer = none := rfl
@[simp] theorem resetEdge_wait : s.resetEdge.wait = none := rfl
@[simp] theorem resetEdge_past : s.resetEdge.past = s.edge :: s.past := rfl
@[simp] theorem resetEdge_host : s.resetEdge.host = s.host.tail := rfl
@[simp] theorem resetEdge_trace : s.resetEdge.trace = s.trace ++ [.reset] := rfl
end resetEdge

section seen
variable {s t : State}
/-- Free values depend on the past edges and the queue alone. -/
theorem seen_congr (hp : s.past = t.past) (hq : s.queue = t.queue) : s.seen = t.seen := by
  simp [State.seen, hp, hq]
@[simp] theorem respond_seen (r : Response) : (s.respond r).seen = s.seen := rfl
@[simp] theorem resetEdge_seen : s.resetEdge.seen = ⟨s.edge :: s.past, []⟩ := rfl
end seen

section delay
variable {s t : State}
/-- A delay is drawn from what has been seen, unless one is drawn already. -/
theorem delay_congr (hw : s.wait = t.wait) (hs : s.seen = t.seen) : s.delay = t.delay := by
  simp [State.delay, hw, hs]
theorem delay_of_some {n : Nat} (h : s.wait = some n) : s.delay = n := by simp [State.delay, h]
theorem delay_of_none (h : s.wait = none) : s.delay = Config.freeDelay s.seen := by
  simp [State.delay, h]
end delay

section withHeadRequest
variable (s : State) (req : Word)
@[simp] theorem withHeadRequest_queue : (s.withHeadRequest req).queue = req :: s.queue.tail := rfl
@[simp] theorem withHeadRequest_offer : (s.withHeadRequest req).offer = none := rfl
@[simp] theorem withHeadRequest_wait : (s.withHeadRequest req).wait = some 0 := rfl
@[simp] theorem withHeadRequest_past : (s.withHeadRequest req).past = s.past := rfl
@[simp] theorem withHeadRequest_trace : (s.withHeadRequest req).trace = s.trace := rfl
@[simp] theorem withHeadRequest_rst : (s.withHeadRequest req).drive.rst = false := by
  cases h : s.host <;> simp [State.withHeadRequest, State.drive, h, idleDrive]
end withHeadRequest

end Sys2Proof.Machine
end

