-- ==== Sys2Proof/Laws/Ops.lean ====
section
/-! SUPPORT. What each shared operation can do, said once: the ports, the handshakes, the answer and
the step. -/

namespace Sys2Proof.Machine

/-- CAPACITY is at least 1 (R10). -/
theorem capacity_pos : 0 < Config.capacity := Nat.succ_pos _

section ports
variable {s : State}

theorem reqReady_of_running (h : s.drive.rst = false) :
    s.reqReady = decide (s.queue.length < Config.capacity) := by simp [State.reqReady, h]

theorem rspValid_iff : s.rspValid = true ↔ ∃ r, s.offer = some r := by
  simp [State.rspValid, Option.isSome_iff_exists]

/-- A transfer takes an offered response at an edge without reset (R28). -/
theorem transfers_iff :
    s.transfers = true ↔ s.drive.rst = false ∧ (∃ r, s.offer = some r) ∧ s.drive.rspReady = true := by
  simp [State.transfers, rspValid_iff, and_assoc]

/-- An acceptance takes an offered word at an edge without reset, when there is room (R27, R31). -/
theorem accepts_iff :
    s.accepts = true ↔
      s.drive.rst = false ∧ s.drive.reqValid = true ∧ s.queue.length < Config.capacity := by
  unfold State.accepts
  cases h : s.drive.rst <;> simp [reqReady_of_running, h]

end ports

/-! ### The transfer and the acceptance of an edge -/

/-- Everything an edge's handshakes do to each field. -/
structure HandshakeSpec (s t : State) : Prop where
  queue : t.queue =
    (if s.transfers then s.queue.tail else s.queue) ++ (if s.accepts then [s.drive.reqData] else [])
  offer : t.offer = if s.transfers then none else s.offer
  wait : t.wait = if s.transfers then none else s.wait
  past : t.past = s.edge :: s.past
  host : t.host = s.host.tail
  trace : t.trace = s.trace
    ++ (if s.transfers then (s.offer.map Event.deliver).toList else [])
    ++ (if s.accepts then [Event.accept s.drive.reqData] else [])

theorem handshake_spec (s : State) : HandshakeSpec s s.handshake := by
  unfold State.handshake
  by_cases ht : s.transfers = true
  · obtain ⟨-, ⟨r, hr⟩, -⟩ := transfers_iff.mp ht
    have hr' : s.nextCycle.offer = some r := hr
    by_cases ha : s.accepts = true <;> constructor <;>
      simp [ht, ha, hr, deliver_of_some hr']
  · by_cases ha : s.accepts = true <;> constructor <;> simp [ht, ha]

/-! ### Running a request -/

/-- Either operation completes, by putting its response on offer and nothing else. -/
theorem exec_eq_respond (i : Instr) (s : State) :
    exec i s = .next (s.respond (match i with
      | .encode e0 e1 e2 e3 => encodeResponse e0 e1 e2 e3
      | .decode code => decodeResponse code s.any32)) := by
  cases i <;> rfl

/-- Every word is answered, legal or not (R61). -/
theorem runRequest_eq_respond (req : Word) (s : State) :
    runRequest req s = .next (s.respond (responseOf req s.any32)) := by
  unfold runRequest responseOf
  cases h : decodeWord req with
  | none => rfl
  | some i => cases i <;> rfl

/-! ### The answer of an edge -/

section answer
variable {s : State}

theorem answer_offered {r : Response} (h : s.offer = some r) : s.answer = .next s := by
  simp [State.answer, h]

theorem answer_idle (h : s.queue = []) : s.answer = .next s := by
  cases ho : s.offer <;> simp [State.answer, h, ho]

theorem answer_due {req : Word} {rest : List Word} (ho : s.offer = none) (hq : s.queue = req :: rest)
    (hw : s.delay = 0) : s.answer = runRequest req s := by
  simp [State.answer, ho, hq, hw]

theorem answer_waiting {req : Word} {rest : List Word} {n : Nat} (ho : s.offer = none)
    (hq : s.queue = req :: rest) (hw : s.delay = n + 1) : s.answer = .next { s with wait := some n } := by
  simp [State.answer, ho, hq, hw]

/-- Everything the answer of an edge can do. -/
theorem answer_cases (s : State) :
    (s.answer = .next s ∧ ((∃ r, s.offer = some r) ∨ s.queue = [])) ∨
    (∃ req rest, s.offer = none ∧ s.queue = req :: rest ∧ s.delay = 0 ∧
      s.answer = .next (s.respond (responseOf req s.any32))) ∨
    (∃ req rest n, s.offer = none ∧ s.queue = req :: rest ∧ s.delay = n + 1 ∧
      s.answer = .next { s with wait := some n }) := by
  cases ho : s.offer with
  | some r => exact .inl ⟨answer_offered ho, .inl ⟨r, rfl⟩⟩
  | none =>
    cases hq : s.queue with
    | nil => exact .inl ⟨answer_idle hq, .inr rfl⟩
    | cons req rest =>
      cases hw : s.delay with
      | zero =>
        exact .inr (.inl ⟨req, rest, rfl, rfl, rfl, by
          rw [answer_due ho hq hw, runRequest_eq_respond]⟩)
      | succ n => exact .inr (.inr ⟨req, rest, n, rfl, rfl, rfl, by
          rw [answer_waiting ho hq hw, ho, hq]⟩)

/-- The answer of an edge only ever touches `offer` and `wait`. -/
theorem answer_frame {t : State} (h : s.answer = .next t) :
    t.queue = s.queue ∧ t.past = s.past ∧ t.host = s.host ∧ t.trace = s.trace := by
  obtain ⟨ha, -⟩ | ⟨req, rest, -, -, -, ha⟩ | ⟨req, rest, n, -, -, -, ha⟩ := answer_cases s <;>
    rw [ha] at h <;> cases h <;> simp

end answer

/-! ### The step -/

section step
variable {s t : State}

theorem step_reset (h : s.drive.rst = true) : step s = .next s.resetEdge := by simp [step, h]

theorem step_running (h : s.drive.rst = false) : step s = s.handshake.answer := by simp [step, h]

/-- Everything a step can do: a reset edge, or the handshakes and then the answer. -/
theorem step_cases (h : step s = .next t) :
    (s.drive.rst = true ∧ t = s.resetEdge) ∨
    (s.drive.rst = false ∧ HandshakeSpec s s.handshake ∧ s.handshake.answer = .next t) := by
  cases hr : s.drive.rst with
  | true => rw [step_reset hr] at h; cases h; exact .inl ⟨rfl, rfl⟩
  | false => rw [step_running hr] at h; exact .inr ⟨rfl, handshake_spec s, h⟩

/-- A step always uses up one cycle of the host's drives and puts one edge into the past. -/
theorem step_cycle (h : step s = .next t) : t.past = s.edge :: s.past ∧ t.host = s.host.tail := by
  obtain ⟨-, rfl⟩ | ⟨-, hs, ha⟩ := step_cases h
  · simp
  · obtain ⟨-, ht, hh, -⟩ := answer_frame ha
    exact ⟨ht.trans hs.past, hh.trans hs.host⟩

end step

/-! ### The observation -/

@[simp] theorem sinceReset_nil : sinceReset [] = [] := rfl

@[simp] theorem sinceReset_append_singleton (es : List Event) (e : Event) :
    sinceReset (es ++ [e]) = if e = .reset then [] else sinceReset es ++ [e] := by
  simp [sinceReset]

@[simp] theorem acceptedOf_append (es fs : List Event) :
    acceptedOf (es ++ fs) = acceptedOf es ++ acceptedOf fs := by simp [acceptedOf]

@[simp] theorem deliveredOf_append (es fs : List Event) :
    deliveredOf (es ++ fs) = deliveredOf es ++ deliveredOf fs := by simp [deliveredOf]

@[simp] theorem acceptedOf_accept (req : Word) : acceptedOf [.accept req] = [req] := rfl
@[simp] theorem acceptedOf_deliver (r : Response) : acceptedOf [.deliver r] = [] := rfl
@[simp] theorem deliveredOf_accept (req : Word) : deliveredOf [.accept req] = [] := rfl
@[simp] theorem deliveredOf_deliver (r : Response) : deliveredOf [.deliver r] = [r] := rfl
@[simp] theorem acceptedOf_nil : acceptedOf [] = [] := rfl
@[simp] theorem deliveredOf_nil : deliveredOf [] = [] := rfl

end Sys2Proof.Machine
end

