-- ==== Sys2Proof/Tests/Slice0.lean ====
section
/-! SUPPORT. Tests on values taken from the spec (95_test_vectors.md, and the tables of rules R85, R99,
R110 and R112), and for every statement with hypotheses a witness that meets them. -/

namespace Sys2Proof.Tests

open Sys2Proof Sys2Proof.Machine

/-! ### WellFormed refuses each ill-formed source line (R66) -/

theorem test_wf_refuses_e0 : (SourceLine.encode 32 0 0 0).wf = false := by decide
theorem test_wf_refuses_e1 : (SourceLine.encode 0 32 0 0).wf = false := by decide
theorem test_wf_refuses_e2 : (SourceLine.encode 0 0 32 0).wf = false := by decide
theorem test_wf_refuses_e3 : (SourceLine.encode 0 0 0 32).wf = false := by decide
theorem test_wf_refuses_code : (SourceLine.decode 65536).wf = false := by decide
theorem test_wf_refuses_word : (SourceLine.word 0x100000000).wf = false := by decide
/-- R66: 52360 to 65535 are accepted. -/
theorem test_wf_accepts_ends : (SourceLine.encode 31 31 31 31).wf = true ∧ (SourceLine.decode 65535).wf = true := by
  decide

/-! ### Decoding of words written out from the patterns of rules R52 and R53 -/

/-- Pattern `01 0000000000 ddddd ccccc bbbbb aaaaa`, each field different. -/
theorem test_decode_encode_word :
    decodeTableWord 32 0b01_0000000000_11110_01001_10110_01011 = some (.encode 11 22 9 30) := by decide
/-- Pattern `10 00000000000000 kkkkkkkkkkkkkkkk`, 43019 = 0xA80B. -/
theorem test_decode_decode_word :
    decodeTableWord 32 0b10_00000000000000_1010100000001011 = some (.decode 43019) := by decide
/-- 95_test_vectors.md section 2.4. -/
theorem test_decode_refuses :
    ∀ w ∈ [0x00000000, 0x3FFFFFFF, 0xC0000000, 0xFFFFFFFF, 0x40100000, 0x7FFFFFFF, 0x80010000, 0x800FFFFF,
      0xBFFF0000, 0x8001CC88], decodeTableWord 32 w = none := by decide
/-- 95_test_vectors.md section 1.2: the words of operations. -/
theorem test_encode_words : encodeWord (.encode 8 5 4 3) = 0x400190A8 ∧ encodeWord (.decode 378) = 0x8000017A := by
  decide

/-! ### The choice count, against rows of the table of rule R85 -/

theorem test_cc_rows : [0, 1, 2, 3, 4, 17, 31, 32].map (fun n => [cc n 1, cc n 2, cc n 3, cc n 4]) =
    [[0, 0, 0, 0], [1, 1, 1, 1], [2, 3, 4, 5], [3, 6, 10, 15], [4, 10, 20, 35], [17, 153, 969, 4845],
      [31, 496, 5456, 46376], [32, 528, 5984, 52360]] := by decide

/-- The probes of stage r = 4 in the worked trace of rule R112. -/
theorem test_search_trace : [1, 2, 3, 4, 5].map (fun k => searchAfter 43019 4 (searchSteps.take k)) =
    [⟨16, 3876⟩, ⟨24, 17550⟩, ⟨28, 31465⟩, ⟨30, 40920⟩, ⟨30, 40920⟩] := by decide

/-! ### One step of each operation -/

/-- The state after reset with a request word due to run. -/
def placed (w : Nat) : State := State.reset.withFetchWord 32 w

/-- What a step puts on offer. -/
def offered (o : Host.Outcome State Fault Refusal) : Option Response :=
  match o with
  | .next t => t.offer
  | _ => none

/-- 95_test_vectors.md section 1.2: encode(11,22,9,30) = 43019. -/
theorem test_step_encode : offered (step (placed 0x400F26CB)) = some ⟨0x0000A80B, .ok⟩ := by decide
/-- 95_test_vectors.md section 2.2: the maximum code. -/
theorem test_step_encode_max : offered (step (placed 0x400FFFFF)) = some ⟨0x0000CC87, .ok⟩ := by decide
/-- 95_test_vectors.md section 1.2: decode(43019) = (30,22,11,9). -/
theorem test_step_decode : offered (step (placed 0x8000A80B)) = some ⟨0x0004AEDE, .ok⟩ := by decide
/-- 95_test_vectors.md section 2.3: 52360 is the first code out of range. -/
theorem test_step_decode_range : (offered (step (placed 0x8000CC88))).map (·.status) = some .errRange := by decide
/-- 95_test_vectors.md section 2.4: ILLEGAL wins. -/
theorem test_step_illegal : (offered (step (placed 0x8001CC88))).map (·.status) = some .errIllegal := by decide
/-- 95_test_vectors.md section 2.3. -/
theorem test_decode_digits : [31, 378, 5983, 6000, 40919].map decodeDigits =
    [⟨3, 3, 3, 0⟩, ⟨8, 5, 4, 3⟩, ⟨17, 17, 17, 16⟩, ⟨18, 3, 2, 2⟩, ⟨29, 29, 29, 29⟩] := by decide

/-! ### The assembler, on the programs of 95_test_vectors.md section 3 -/

/-- Program P2, `.word` lines and comments. -/
theorem test_assemble_p2 :
    assembleText ".word 0x00000000          ; OP = 0b00\nDECODE 52360 ; 0x8000CC88\n.word 0x8001CC88\n\n; end".toList =
      some [0x00000000, 0x8000CC88, 0x8001CC88] := by decide +kernel
/-- Rule R66: an element of 32 is refused. -/
theorem test_assemble_refuses : assembleText "ENCODE 0, 0, 0, 32".toList = none := by decide +kernel

/-! ### Witnesses: states and operands that meet the hypotheses of the statements -/

/-- A state with a response on offer: ENCODE 1, 0, 0, 0 has been accepted and answered with 1. -/
def busy : State where
  queue := [0x40000001#32]
  offer := some ⟨1#32, .ok⟩
  wait := none
  past := [⟨false, false, some 0x40000001#32⟩]
  host := [⟨false, false, 0#32, true⟩, ⟨false, true, 0x80000005#32, true⟩]
  trace := [.accept 0x40000001#32]

/-- `busy` with the host not ready to take the response. -/
def held : State := { busy with host := [⟨false, false, 0#32, false⟩] }

/-- An empty block to which the host offers DECODE 5. -/
def offering : State := { State.reset with host := [⟨false, true, 0x80000005#32, false⟩] }

/-- A block with a request whose response is held back for one more edge. -/
def waiting : State := { busy with offer := none, wait := some 1, host := [] }

/-- A block at a reset edge with a request in flight. -/
def resetting : State := { busy with host := [⟨true, true, 0x80000005#32, true⟩] }

/-- A full block to which the host offers DECODE 5. -/
def full : State := { offering with queue := List.replicate Config.capacity 0x40000001#32 }

theorem busy_channelInv : busy.ChannelInv :=
  ⟨capacity_pos, by
    intro rsp h
    refine ⟨_, _, 0#32, rfl, ?_⟩
    cases h
    decide⟩

theorem busy_inOrder : busy.InOrder := by
  refine ⟨rfl, by decide, ?_⟩
  intro k req rsp _ h
  simp [busy, sinceReset, deliveredOf] at h

theorem witness_DecodeOfEncodeIsIdentity :
    (Instr.encode 31 0 31 0).wf = true ∧ (Instr.decode 65535).wf = true := by decide
theorem witness_EncodeOfDecodeIsIdentity :
    decodeWord 0x400FFFFF#32 = some (.encode 31 31 31 31) ∧ decodeWord 0x8000FFFF#32 = some (.decode 65535) := by decide
theorem witness_DecodeFollowsOpcodeMap :
    (0x40000000#32 &&& 0xFFF00000#32) = 0x40000000#32 ∧ (0x8000FFFF#32 &&& 0xFFFF0000#32) = 0x80000000#32 ∧
      decodeWord 0x400F26CB#32 = some (.encode 11 22 9 30) ∧ decodeWord 0x8000FFFF#32 = some (.decode 65535) := by decide
theorem witness_LegalWordsAreCounted : decodeWord 0#32 = none := by decide
theorem witness_ReservedOpcodesAreIllegal :
    (0x3FFFFFFF#32).extractLsb' 30 2 = 0b00#2 ∧ (0xC0000000#32).extractLsb' 30 2 = 0b11#2 := by decide
/-- The lowest and the highest reserved bit of each format. -/
theorem witness_ReservedBitsAreIllegal :
    ∀ w ∈ [0x40100000#32, 0x60000000#32, 0x80010000#32, 0xA0000000#32],
      (w.extractLsb' 30 2 = 0b01#2 ∧ w.extractLsb' 20 10 ≠ 0#10) ∨
        (w.extractLsb' 30 2 = 0b10#2 ∧ w.extractLsb' 16 14 ≠ 0#14) := by
  intro w hw
  fin_cases hw <;> decide
theorem witness_MispackedElementsSpillOver :
    (31 < 32 ∧ 32 ≤ 32 ∧ 32 < 2 ^ 15 ∧ 32 ≤ 32767 ∧ 32767 < 2 ^ 15) ∧ (1023 < 1024 ∧ 31 < 32) := by norm_num
theorem witness_ChoiceCountCountsMultisets : ∀ n ∈ [0, 32], ∀ r ∈ [1, 4], n ≤ 32 ∧ 1 ≤ r ∧ r ≤ 4 := by decide
theorem witness_ChoiceCountDivisionsAreExact : (∀ r ∈ [1, 4], 1 ≤ r ∧ r ≤ 4) ∧ ∀ n ∈ [4, 32], 4 ≤ n ∧ n ≤ 32 := by decide
theorem witness_ChoiceCountGrowsWithinSixteenBits : 0 < 32 ∧ 32 ≤ 32 ∧ 1 ≤ 4 ∧ 4 ≤ 4 := by decide
theorem witness_ChoiceCountTableIsExact : ∀ n ∈ [0, 32], ∀ r ∈ [1, 4], n ≤ 32 ∧ 1 ≤ r ∧ r ≤ 4 := by decide
theorem witness_InternalValuesFitTheirWidths : 32 ≤ 32 ∧ 4 < searchSteps.length ∧ 2 ≤ 4 ∧ 4 ≤ 4 := by decide
theorem witness_ReciprocalDivisionConstants :
    (4 ≤ 32 ∧ 0x5558 < 2 ^ 16) ∧ (0 < 65535 ∧ 3 * 65535 < 196608) ∧ 3 * 32767 < 98304 := by decide
theorem witness_EncodeRespondsWithDigitSum :
    [30, 22, 11, 9].Perm [(11#5).toNat, (22#5).toNat, (9#5).toNat, (30#5).toNat] ∧
      22 ≤ 30 ∧ 11 ≤ 22 ∧ 9 ≤ 11 := by decide
theorem witness_EncodeIsPermutationInvariant : [3#5, 1#5, 2#5, 0#5].Perm [0#5, 1#5, 2#5, 3#5] := by decide
theorem witness_EncodeIsBijectionOntoCodes : 52359 < 52360 := by decide
theorem witness_DecodeOutOfRangeIsErrRange : 52360 ≤ (52360#16).toNat ∧ 52360 ≤ (65535#16).toNat := by decide
theorem witness_DecodeRespondsWithLargestDigits : (0#16).toNat < 52360 ∧ (52359#16).toNat < 52360 := by decide
theorem witness_SearchReturnsLargestCandidate : (2 ≤ 2 ∧ 2 ≤ 4) ∧ (2 ≤ 4 ∧ 4 ≤ 4) := by decide
theorem witness_SearchProbesStayInDomain : 4 < searchSteps.length ∧ 2 ≤ 4 ∧ 4 ≤ 4 := by decide
theorem witness_OutOfRangeDigitsWouldNotFit : 52360 ≤ (52360#16).toNat := by decide
theorem witness_EncodeAndDecodeAreInverse :
    [31, 31, 0, 0].Perm [(31#5).toNat, (0#5).toNat, (31#5).toNat, (0#5).toNat] ∧ 31 ≤ 31 ∧ 0 ≤ 31 ∧ 0 ≤ 0 ∧
      (52359#16).toNat < 52360 := by decide
theorem witness_DecodedDataReencodes :
    exec (.decode 43019) State.reset = .next (State.reset.respond ⟨0x0004AEDE#32, .ok⟩) ∧
      (State.reset.respond ⟨0x0004AEDE#32, .ok⟩).offer = some ⟨0x0004AEDE#32, .ok⟩ := ⟨rfl, rfl⟩
theorem witness_StatusElevenIsNeverProduced : busy.rspValid = true := by decide
theorem witness_IllegalComesBeforeRange :
    (0x8001CC88#32).extractLsb' 30 2 = 0b10#2 ∧ (0x8001CC88#32).extractLsb' 16 14 ≠ 0#14 ∧
      52360 ≤ ((0x8001CC88#32).extractLsb' 0 16).toNat := by decide
theorem witness_OperationsWriteOnlyTheirResponse :
    exec (.encode 1 0 0 0) State.reset = .next (State.reset.respond ⟨1#32, .ok⟩) := rfl
/-- An ENCODE word that is due, and an illegal word that is due. -/
theorem witness_StepRunsTheDecodedRequest :
    ((placed 0x400F26CB).drive.rst = false ∧ (placed 0x400F26CB).handshake.offer = none ∧
      (placed 0x400F26CB).handshake.queue = [0x400F26CB#32] ∧ (placed 0x400F26CB).handshake.delay = 0 ∧
      (Instr.encode 11 22 9 30).wf = true ∧ decodeWord 0x400F26CB#32 = some (.encode 11 22 9 30)) ∧
    ((placed 0).drive.rst = false ∧ (placed 0).handshake.offer = none ∧
      (placed 0).handshake.queue = [0#32] ∧ (placed 0).handshake.delay = 0 ∧ decodeWord 0#32 = none) := by decide
theorem witness_StepOtherwiseOnlyHandshakes :
    (held.drive.rst = false ∧ held.handshake.offer = some ⟨1#32, .ok⟩) ∧
    (State.reset.drive.rst = false ∧ State.reset.handshake.queue = []) ∧
    (waiting.drive.rst = false ∧ waiting.handshake.offer = none ∧ waiting.handshake.queue = [0x40000001#32] ∧
      waiting.handshake.delay = 0 + 1) := by decide
theorem witness_PlacedWordRunsNext : 0xFFFFFFFF < 2 ^ 32 := by decide
theorem witness_EdgeAcceptsAndTransfers :
    resetting.drive.rst = true ∧
    (busy.drive.rst = false ∧ busy.rspValid = true ∧ busy.drive.rspReady = true ∧ busy.drive.reqValid = false) ∧
    (offering.drive.rst = false ∧ offering.drive.reqValid = true ∧ offering.reqReady = true ∧ offering.rspValid = false) :=
  ⟨by decide, by decide, by decide, by decide, by
    rw [reqReady_of_running (by decide)]; simp [offering, capacity_pos], by decide⟩
theorem witness_ReqReadyExactlyWhenRoom :
    offering.drive.rst = false ∧ resetting.drive.rst = true ∧
      busy.host = ⟨false, false, 0#32, true⟩ :: [⟨false, true, 0x80000005#32, true⟩] := by decide
theorem witness_HandshakesDoNotWaitOnEachOther :
    busy.host = ⟨false, false, 0#32, true⟩ :: [⟨false, true, 0x80000005#32, true⟩] := by decide
theorem witness_OfferStaysUntilTakenOrReset :
    held.rspValid = true ∧ held.drive.rst = false ∧ held.drive.rspReady = false := by decide
theorem witness_ResetEdgeDropsEverything : resetting.drive.rst = true ∧ resetting.resetEdge.drive.rst = false := by decide
theorem witness_ResetStateIsReady : ({ State.reset with host := [⟨false, true, 0#32, true⟩] } : State).drive.rst = false := by
  decide
/-- A full block does not accept. -/
theorem witness_UnacceptedOfferHasNoEffect :
    full.host = ⟨false, true, 0x80000005#32, false⟩ :: [] ∧ full.accepts = false :=
  ⟨rfl, by
    rw [← Bool.not_eq_true, accepts_iff]
    simp [full]⟩
theorem witness_NothingLeavesAnEmptyQueue : State.reset.ChannelInv ∧ State.reset.queue = [] :=
  ⟨⟨Nat.zero_le _, by simp⟩, rfl⟩
theorem witness_StepKeepsChannelInvariant : busy.ChannelInv ∧ ∃ t, step busy = .next t :=
  ⟨busy_channelInv, _, rfl⟩
theorem witness_StepRefinesTransitionSystem : busy.ChannelInv ∧ ∃ t, step busy = .next t :=
  ⟨busy_channelInv, _, rfl⟩
theorem witness_EveryTransitionIsTaken :
    Transition [] (.accept 0#32) [0#32] ∧ Transition [0#32] (.deliver (responseOf 0#32 7#32)) [] ∧
      Transition [0#32] .reset [] ∧ [0#32].length ≤ Config.capacity :=
  ⟨⟨capacity_pos, rfl⟩, ⟨_, _, rfl, rfl⟩, rfl, capacity_pos⟩
theorem witness_AcceptAndDeliverCommute : busy.rspValid = true ∧ busy.queue ≠ [] := by decide
theorem witness_ResponsesKeepRequestOrder : busy.ChannelInv ∧ busy.InOrder ∧ ∃ t, step busy = .next t :=
  ⟨busy_channelInv, busy_inOrder, _, rfl⟩
/-- A reset edge and then an idle edge. -/
theorem witness_EveryRunFollowsTransitionSystem :
    ∃ t, core.run 2 ({ State.reset with host := [⟨true, true, 0x80000005#32, true⟩] } : State) = .next t := ⟨_, rfl⟩
/-- A response with ERR_ILLEGAL against one with OK, with a transfer at this edge. -/
theorem witness_ErrorsAreNotSticky :
    ({ busy with offer := some ⟨0#32, .errIllegal⟩ } : State).SameButResponse busy ∧
      (∃ t, step { busy with offer := some ⟨0#32, .errIllegal⟩ } = .next t) ∧
      ({ busy with offer := some ⟨0#32, .errIllegal⟩ } : State).transfers = true :=
  ⟨⟨rfl, rfl, rfl, rfl, rfl⟩, ⟨_, rfl⟩, rfl⟩
theorem witness_HeadIsAnsweredInFiniteTime (n : Nat) :
    waiting.queue ≠ [] ∧
      ∀ d ∈ (List.replicate n (⟨false, true, 0#32, false⟩ : Drive)).take n, d.rst = false := by
  refine ⟨by decide, fun d hd => ?_⟩
  rw [List.eq_of_mem_replicate (List.mem_of_mem_take hd)]
theorem witness_EveryRequestInFlightIsAnswered (n : Nat) :
    n ≤ (List.replicate n (⟨false, true, 0#32, true⟩ : Drive)).length ∧
      ∀ d ∈ List.replicate n (⟨false, true, 0#32, true⟩ : Drive), d.rst = false ∧ d.rspReady = true := by
  simp +contextual [List.mem_replicate]
/-- A run in which the host never takes the response on offer. -/
def neverTaken (n : Nat) : State :=
  { held with host := [], past := List.replicate n ⟨false, false, none⟩ ++ held.past }

/-- A run in which the host takes the response on offer at once, and then nothing happens. -/
def takenAtOnce (n : Nat) : State :=
  match n with
  | 0 => busy
  | k + 1 =>
    { busy with
      queue := [], offer := none, host := []
      past := List.replicate k ⟨false, false, none⟩ ++ ⟨false, true, none⟩ :: busy.past
      trace := busy.trace ++ [.deliver ⟨1#32, .ok⟩] }

theorem neverTaken_infiniteRun : InfiniteRun (fun _ => ⟨false, false, 0#32, false⟩) neverTaken :=
  fun _ => rfl

theorem takenAtOnce_infiniteRun : InfiniteRun (fun _ => ⟨false, false, 0#32, true⟩) takenAtOnce
  | 0 => rfl
  | _ + 1 => rfl

/-- A queue that never empties, a host that goes on taking responses, and a weakly fair behaviour with
one delivery and no reset. -/
theorem witness_DeliverIsWeaklyFair :
    (InfiniteRun (fun _ => ⟨false, false, 0#32, false⟩) neverTaken ∧ ∀ n, 0 ≤ n → (neverTaken n).queue ≠ []) ∧
    (InfiniteRun (fun _ => ⟨false, false, 0#32, true⟩) takenAtOnce ∧ (takenAtOnce 0).ChannelInv ∧
      ∀ m : Nat, ∃ n, m ≤ n ∧ (⟨false, false, 0#32, true⟩ : Drive).rspReady = true) ∧
    (Behaviour (fun n => if n = 0 then [0#32] else [])
        (fun n => if n = 0 then [.deliver (responseOf 0#32 7#32)] else []) ∧
      WeaklyFairDeliver (fun n => if n = 0 then [0#32] else [])
        (fun n => if n = 0 then [.deliver (responseOf 0#32 7#32)] else []) ∧
      ∀ n, 0 ≤ n → Event.reset ∉ (if n = 0 then [Event.deliver (responseOf 0#32 7#32)] else [])) := by
  refine ⟨⟨neverTaken_infiniteRun, fun _ _ => List.cons_ne_nil _ _⟩,
    ⟨takenAtOnce_infiniteRun, busy_channelInv, fun m => ⟨m, le_rfl, rfl⟩⟩, ?_, ?_, ?_⟩
  · rintro (_ | n)
    · exact ⟨[], ⟨_, _, rfl, rfl⟩, rfl⟩
    · rfl
  · exact fun m h => absurd rfl (h (m + 1) (by omega))
  · rintro (_ | n) - <;> simp
theorem witness_BackpressureFillsTheQueue :
    offering.queue.length ≤ Config.capacity ∧ 1 ≤ offering.host.length ∧
      ∀ d ∈ offering.host.take 1, d.rst = false ∧ d.reqValid = true ∧ d.rspReady = false :=
  ⟨Nat.zero_le _, by decide, by decide⟩
theorem witness_AssemblerFollowsFormats :
    (31 ≤ 31 ∧ 31 < 32) ∧ (65535 ≤ 65535 ∧ 65535 < 65536) ∧ (0xFFFFFFFF < 2 ^ 32 ∧ 2 ^ 32 ≤ 0x100000000) := by decide

end Sys2Proof.Tests
end

section
/-! PROOFS. The state of the block (10_state.md): what a response depends on, what an edge accepts and
transfers, and when a request is accepted. -/

namespace Sys2Proof.Machine

/-! ### What a response depends on (R32) -/

section decodeResponse
variable {code : Code}

theorem decodeResponse_of_outOfRange (h : codeOutOfRange (codeValue code) = true) (any : Word) :
    decodeResponse code any = ⟨any, .errRange⟩ := by
  simp [decodeResponse, h, raiseResponse]

theorem decodeResponse_of_inRange (h : codeOutOfRange (codeValue code) = false) (any : Word) :
    decodeResponse code any = ⟨digitData (decodeDigits (codeValue code)), .ok⟩ := by
  simp [decodeResponse, h]

/-- Whether DECODE is out of range is a matter of the code alone (R101). -/
theorem decodeResponse_status (code : Code) (any any' : Word) :
    (decodeResponse code any).status = (decodeResponse code any').status := by
  cases h : codeOutOfRange (codeValue code) with
  | true => rw [decodeResponse_of_outOfRange h, decodeResponse_of_outOfRange h]
  | false => rw [decodeResponse_of_inRange h, decodeResponse_of_inRange h]

/-- Only the error response of DECODE draws `ANY32` (R59). -/
theorem decodeResponse_of_ok {any : Word} (any' : Word)
    (hok : (decodeResponse code any).status = .ok) :
    decodeResponse code any = decodeResponse code any' := by
  cases h : codeOutOfRange (codeValue code) with
  | true =>
    rw [decodeResponse_of_outOfRange h] at hok
    cases hok
  | false => rw [decodeResponse_of_inRange h, decodeResponse_of_inRange h]

end decodeResponse

section responseOf
variable {req : Word}

theorem responseOf_of_encode {e0 e1 e2 e3 : Element} (h : decodeWord req = some (.encode e0 e1 e2 e3))
    (any : Word) : responseOf req any = encodeResponse e0 e1 e2 e3 := by
  simp [responseOf, h]

theorem responseOf_of_decode {code : Code} (h : decodeWord req = some (.decode code)) (any : Word) :
    responseOf req any = decodeResponse code any := by
  simp [responseOf, h]

theorem responseOf_of_illegal (h : decodeWord req = none) (any : Word) :
    responseOf req any = ⟨any, .errIllegal⟩ := by
  simp [responseOf, h, raiseResponse]

/-- The status of a response does not depend on the draw of `ANY32`. -/
theorem responseOf_status (req any any' : Word) :
    (responseOf req any).status = (responseOf req any').status := by
  rcases h : decodeWord req with _ | ⟨e0, e1, e2, e3⟩ | code
  · rw [responseOf_of_illegal h, responseOf_of_illegal h]
  · rw [responseOf_of_encode h, responseOf_of_encode h]
  · rw [responseOf_of_decode h, responseOf_of_decode h]
    exact decodeResponse_status code any any'

/-- An OK response does not depend on the draw of `ANY32` at all. -/
theorem responseOf_of_ok {any : Word} (any' : Word) (hok : (responseOf req any).status = .ok) :
    responseOf req any = responseOf req any' := by
  rcases h : decodeWord req with _ | ⟨e0, e1, e2, e3⟩ | code
  · rw [responseOf_of_illegal h] at hok
    cases hok
  · rw [responseOf_of_encode h, responseOf_of_encode h]
  · rw [responseOf_of_decode h] at hok ⊢
    rw [responseOf_of_decode h]
    exact decodeResponse_of_ok any' hok

end responseOf

/-- Settles O32: each state puts `responseOf req` of its own draw of `ANY32` on offer, and an error's
data word is all that the draw decides. -/
theorem responseDependsOnWordAlone : Obligations.ResponseDependsOnWordAlone := by
  intro req s t
  exact ⟨responseOf req s.any32, responseOf req t.any32, runRequest_eq_respond req s,
    runRequest_eq_respond req t, responseOf_status req _ _,
    fun hok => congrArg Response.data (responseOf_of_ok _ hok)⟩

/-! ### The observation of events of one kind -/

@[simp] theorem acceptedOf_reset : acceptedOf [.reset] = [] := rfl
@[simp] theorem deliveredOf_reset : deliveredOf [.reset] = [] := rfl

@[simp] theorem acceptedOf_map_accept (ws : List Word) : acceptedOf (ws.map .accept) = ws := by
  simp [acceptedOf, List.filterMap_map]

@[simp] theorem acceptedOf_map_deliver (rs : List Response) : acceptedOf (rs.map .deliver) = [] := by
  simp [acceptedOf, List.filterMap_map]

@[simp] theorem deliveredOf_map_accept (ws : List Word) : deliveredOf (ws.map .accept) = [] := by
  simp [deliveredOf, List.filterMap_map]

@[simp] theorem deliveredOf_map_deliver (rs : List Response) : deliveredOf (rs.map .deliver) = rs := by
  simp [deliveredOf, List.filterMap_map]

/-! ### What an edge accepts and transfers (R27, R28, R31) -/

section ports
variable {s : State}

/-- An acceptance in terms of the ports (R27). -/
theorem accepts_iff_ports :
    s.accepts = true ↔ s.drive.rst = false ∧ s.drive.reqValid = true ∧ s.reqReady = true := by
  simp [State.accepts, and_assoc]

/-- A transfer in terms of the ports (R28). -/
theorem transfers_iff_ports :
    s.transfers = true ↔ s.drive.rst = false ∧ s.rspValid = true ∧ s.drive.rspReady = true := by
  simp [State.transfers, and_assoc]

/-- A reset edge accepts nothing (R31). -/
theorem accepts_of_reset (h : s.drive.rst = true) : s.accepts = false := by
  simp [State.accepts, h]

/-- A reset edge transfers nothing (R31). -/
theorem transfers_of_reset (h : s.drive.rst = true) : s.transfers = false := by
  simp [State.transfers, h]

theorem rspData_of_offer {r : Response} (h : s.offer = some r) : s.rspData = r.data := by
  simp [State.rspData, h]

theorem rspStatus_of_offer {r : Response} (h : s.offer = some r) : s.rspStatus = r.status.bits := by
  simp [State.rspStatus, h]

end ports

theorem answer_exists (s : State) : ∃ t, s.answer = .next t := by
  obtain ⟨h, -⟩ | ⟨_, _, -, -, -, h⟩ | ⟨_, _, _, -, -, -, h⟩ := answer_cases s <;> exact ⟨_, h⟩

/-- Every edge leads to a next state (R120). -/
theorem step_exists (s : State) : ∃ t, step s = .next t := by
  cases h : s.drive.rst with
  | true => exact ⟨_, step_reset h⟩
  | false => rw [step_running h]; exact answer_exists _

/-- The response that leaves at the coming edge, if one does (R28). -/
def State.leaving (s : State) : List Response := if s.transfers then s.offer.toList else []

/-- The word accepted at the coming edge, if one is (R27). -/
def State.entering (s : State) : List Word := if s.accepts then [s.drive.reqData] else []

section step
variable {s t : State}

theorem leaving_of_transfer {r : Response} (h : s.transfers = true) (hr : s.offer = some r) :
    s.leaving = [r] := by
  simp [State.leaving, h, hr]

theorem leaving_of_no_transfer (h : s.transfers ≠ true) : s.leaving = [] := by
  simp [State.leaving, h]

/-- At an edge without reset the queue and the observation are those of the handshakes. -/
theorem step_handshake (hrst : s.drive.rst = false) (h : step s = .next t) :
    t.queue = s.handshake.queue ∧ t.trace = s.handshake.trace := by
  rw [step_running hrst] at h
  obtain ⟨hq, -, -, ht⟩ := answer_frame h
  exact ⟨hq, ht⟩

/-- What the handshakes note: the response that leaves, then the word that enters. -/
theorem handshake_trace (s : State) :
    s.handshake.trace = s.trace ++ s.leaving.map .deliver ++ s.entering.map .accept := by
  rw [(handshake_spec s).trace, State.leaving, State.entering]
  by_cases ht : s.transfers = true
  · obtain ⟨-, ⟨r, hr⟩, -⟩ := transfers_iff.mp ht
    cases s.accepts <;> simp [ht, hr]
  · cases s.accepts <;> simp [ht]

/-- Any step, a reset edge too, notes exactly the word accepted at it. -/
theorem step_acceptedOf (h : step s = .next t) :
    acceptedOf t.trace = acceptedOf s.trace ++ s.entering := by
  cases hrst : s.drive.rst with
  | true =>
    rw [step_reset hrst] at h
    cases h
    simp [State.entering, accepts_of_reset hrst]
  | false => rw [(step_handshake hrst h).2, handshake_trace]; simp

/-- Any step, a reset edge too, notes exactly the response transferred at it. -/
theorem step_deliveredOf (h : step s = .next t) :
    deliveredOf t.trace = deliveredOf s.trace ++ s.leaving := by
  cases hrst : s.drive.rst with
  | true =>
    rw [step_reset hrst] at h
    cases h
    simp [State.leaving, transfers_of_reset hrst]
  | false => rw [(step_handshake hrst h).2, handshake_trace]; simp

/-- At an edge without reset the queue loses its head by a transfer and gets the accepted word at its
end. -/
theorem step_queue (hrst : s.drive.rst = false) (h : step s = .next t) :
    t.queue = (if s.transfers then s.queue.tail else s.queue) ++ s.entering :=
  (step_handshake hrst h).1.trans (handshake_spec s).queue

end step

/-- Settles O37: the step notes `entering` and `leaving`, which the port signals decide. -/
theorem edgeAcceptsAndTransfers : Obligations.EdgeAcceptsAndTransfers := by
  intro s
  obtain ⟨t, ht⟩ := step_exists s
  simp only [← transfers_iff_ports, ← accepts_iff_ports]
  refine ⟨t, s.leaving, ht, step_acceptedOf ht, step_deliveredOf ht, fun htr => ?_,
    leaving_of_no_transfer, fun hrst => ?_⟩
  · obtain ⟨-, ⟨r, hr⟩, -⟩ := transfers_iff.mp htr
    exact ⟨r, leaving_of_transfer htr hr, (rspData_of_offer hr).symm, (rspStatus_of_offer hr).symm⟩
  · simpa [State.entering, transfers_iff_ports, accepts_iff_ports, hrst] using step_queue hrst ht

/-! ### When there is room (R31) -/

/-- `req_ready` is a function of `rst`, the past edges and the queue. -/
theorem reqReady_congr {s t : State} (hrst : s.drive.rst = t.drive.rst) (hseen : s.seen = t.seen) :
    s.reqReady = t.reqReady := by
  have hqueue : s.queue = t.queue := congrArg Seen.queue hseen
  simp [State.reqReady, hrst, hseen, hqueue]

/-- Settles O38: `req_ready` compares the queue with CAPACITY, reads nothing of the host but `rst`, and
both handshakes need `rst = 0`. -/
theorem reqReadyExactlyWhenRoom : Obligations.ReqReadyExactlyWhenRoom := by
  intro s
  refine ⟨fun hrst => ?_, fun d ds valid data hhost => ?_,
    fun hrst => ⟨accepts_of_reset hrst, transfers_of_reset hrst⟩⟩
  · rw [reqReady_of_running hrst, decide_eq_true_iff]
  · exact reqReady_congr (by simp [State.drive, hhost]) rfl

end Sys2Proof.Machine
end

section
/-! PROOFS. The order of responses (R45): which transitions of rule R33 a step takes, and that every
transition keeps the responses in the order of their requests. -/

namespace Sys2Proof.Machine

/-! ### The transitions a step takes (R33) -/

theorem transitions_append {q mid q' : List Word} {es fs : List Event}
    (hes : Transitions q es mid) (hfs : Transitions mid fs q') : Transitions q (es ++ fs) q' := by
  induction es generalizing q with
  | nil =>
    obtain rfl : mid = q := hes
    exact hfs
  | cons e es ih =>
    obtain ⟨next, he, hrest⟩ := hes
    exact ⟨next, he, ih hrest⟩

theorem transitions_singleton {q q' : List Word} {e : Event} (h : Transition q e q') :
    Transitions q [e] q' := ⟨q', h, rfl⟩

/-- What the coming edge shows: a reset, or the response that leaves and then the word that
enters. -/
def State.shown (s : State) : List Event :=
  if s.drive.rst then [.reset] else s.leaving.map .deliver ++ s.entering.map .accept

section step
variable {s t : State}

theorem step_trace (h : step s = .next t) : t.trace = s.trace ++ s.shown := by
  cases hrst : s.drive.rst with
  | true =>
    rw [step_reset hrst] at h
    cases h
    simp [State.shown, hrst]
  | false => simp [(step_handshake hrst h).2, handshake_trace, State.shown, hrst]

/-- Under the channel invariant the response that leaves is `Exec` of the head of the queue (R29). -/
theorem transitions_leaving (hinv : s.ChannelInv) :
    Transitions s.queue (s.leaving.map .deliver)
      (if s.transfers then s.queue.tail else s.queue) := by
  by_cases htr : s.transfers = true
  · obtain ⟨-, ⟨r, hr⟩, -⟩ := transfers_iff.mp htr
    obtain ⟨-, hoffer⟩ := hinv
    obtain ⟨req, rest, any, hqueue, hrsp⟩ := hoffer r hr
    rw [leaving_of_transfer htr hr, if_pos htr, hqueue]
    exact transitions_singleton ⟨req, any, rfl, hrsp⟩
  · rw [leaving_of_no_transfer htr, if_neg htr]
    rfl

/-- A word enters only if there was room before the edge (R31), so also where the queue has become
shorter by a transfer at that edge. -/
theorem transitions_entering {q : List Word} (hq : q.length ≤ s.queue.length) :
    Transitions q (s.entering.map .accept) (q ++ s.entering) := by
  by_cases hacc : s.accepts = true
  · obtain ⟨-, -, hroom⟩ := accepts_iff.mp hacc
    simp only [State.entering, if_pos hacc]
    exact transitions_singleton ⟨hq.trans_lt hroom, rfl⟩
  · simp only [State.entering, if_neg hacc, List.append_nil]
    rfl

/-- A step takes exactly the transitions it shows. -/
theorem step_transitions (hinv : s.ChannelInv) (h : step s = .next t) :
    Transitions s.queue s.shown t.queue := by
  cases hrst : s.drive.rst with
  | true =>
    rw [step_reset hrst] at h
    cases h
    rw [State.shown, if_pos hrst]
    exact transitions_singleton rfl
  | false =>
    rw [step_queue hrst h, State.shown, if_neg (by simp [hrst])]
    refine transitions_append (transitions_leaving hinv) (transitions_entering ?_)
    split <;> simp

end step

/-! ### Every transition keeps the order (R45) -/

/-- The response is `Exec` of the request word, for some draw of `ANY32`. -/
def Answers (req : Word) (rsp : Response) : Prop := ∃ any, rsp = responseOf req any

/-- `State.InOrder` over an observation and a queue: the requests accepted since the last reset are
some that are answered, one response each and in order, and then those in the queue. -/
def OrderKept (es : List Event) (q : List Word) : Prop :=
  ∃ answered, acceptedOf (sinceReset es) = answered ++ q ∧
    List.Forall₂ Answers answered (deliveredOf (sinceReset es))

theorem inOrder_iff_orderKept {s : State} : s.InOrder ↔ OrderKept s.trace s.queue := by
  constructor
  · rintro ⟨hqueue, hle, hanswers⟩
    refine ⟨(acceptedOf (sinceReset s.trace)).take (deliveredOf (sinceReset s.trace)).length,
      by rw [← hqueue, List.take_append_drop], List.forall₂_iff_get.mpr ⟨by simp [hle], ?_⟩⟩
    intro k hreq hrsp
    exact hanswers k _ _ (by simp) (by simp)
  · rintro ⟨answered, haccepted, hanswers⟩
    have hlength := hanswers.length_eq
    refine ⟨by rw [haccepted, ← hlength, List.drop_left], by simp [haccepted, hlength], ?_⟩
    intro k req rsp hreq hrsp
    obtain ⟨hk, rfl⟩ := List.getElem?_eq_some_iff.mp hrsp
    rw [haccepted, List.getElem?_append_left (by omega)] at hreq
    obtain ⟨hk', rfl⟩ := List.getElem?_eq_some_iff.mp hreq
    exact (List.forall₂_iff_get.mp hanswers).2 k hk' hk

theorem OrderKept.append_transition {es : List Event} {q q' : List Word} {e : Event}
    (h : OrderKept es q) (he : Transition q e q') : OrderKept (es ++ [e]) q' := by
  obtain ⟨answered, haccepted, hanswers⟩ := h
  cases e with
  | accept req =>
    obtain ⟨-, rfl⟩ := he
    exact ⟨answered, by simp [haccepted], by simpa using hanswers⟩
  | deliver rsp =>
    obtain ⟨req, any, rfl, hrsp⟩ := he
    refine ⟨answered ++ [req], by simp [haccepted], ?_⟩
    simpa using List.rel_append hanswers (.cons ⟨any, hrsp⟩ .nil)
  | reset =>
    obtain rfl : q' = [] := he
    exact ⟨[], by simp, by simp⟩

theorem OrderKept.append_transitions {es fs : List Event} {q q' : List Word}
    (h : OrderKept es q) (hfs : Transitions q fs q') : OrderKept (es ++ fs) q' := by
  induction fs generalizing es q with
  | nil =>
    obtain rfl : q' = q := hfs
    simpa using h
  | cons e fs ih =>
    obtain ⟨mid, he, hrest⟩ := hfs
    simpa using ih (h.append_transition he) hrest

/-- Settles O51: the step takes the transitions it shows, and each keeps the order. -/
theorem responsesKeepRequestOrder : Obligations.ResponsesKeepRequestOrder := by
  intro s t hinv horder h
  rw [inOrder_iff_orderKept] at horder ⊢
  rw [step_trace h]
  exact horder.append_transitions (step_transitions hinv h)

end Sys2Proof.Machine
end

section
/-! PROOFS. Request words (30_encoding.md): what the decoder accepts, the opcode map, the numbers of
legal and illegal words, and the data words of ENCODE and DECODE. -/

namespace Sys2Proof

/-! ### What the decoder accepts (R52 to R55, R61) -/

section decodeWord
variable {req : Word}

theorem decodeWord_of_encodeFormat (hop : opField req = 0b01#2) (hres : encodeReserved req = 0#10) :
    decodeWord req = some (.encode (e0Field req) (e1Field req) (e2Field req) (e3Field req)) := by
  simp [decodeWord, hop, hres]

theorem decodeWord_of_decodeFormat (hop : opField req = 0b10#2) (hres : decodeReserved req = 0#14) :
    decodeWord req = some (.decode (codeField req)) := by
  simp [decodeWord, hop, hres]

theorem decodeWord_of_reservedOp (h1 : opField req ≠ 0b01#2) (h2 : opField req ≠ 0b10#2) :
    decodeWord req = none := by
  simp [decodeWord, h1, h2]

theorem encodeFormat_of_decodeWord {e0 e1 e2 e3 : Element}
    (h : decodeWord req = some (.encode e0 e1 e2 e3)) :
    opField req = 0b01#2 ∧ encodeReserved req = 0#10 ∧
      e0Field req = e0 ∧ e1Field req = e1 ∧ e2Field req = e2 ∧ e3Field req = e3 := by
  unfold decodeWord at h
  split_ifs at h with hop hres
  · simp_all
  · simp at h

theorem decodeFormat_of_decodeWord {code : Code} (h : decodeWord req = some (.decode code)) :
    opField req = 0b10#2 ∧ decodeReserved req = 0#14 ∧ codeField req = code := by
  unfold decodeWord at h
  split_ifs at h with hop hres hop' hres'
  · simp at h
  · simp_all

/-- The fixed bits of an ENCODE word, as a number (R52). -/
theorem encodeFormat_iff_toNat :
    opField req = 0b01#2 ∧ encodeReserved req = 0#10 ↔ req.toNat / 2 ^ 20 = 2 ^ 10 := by
  have hlt := req.isLt
  simp only [BitVec.toNat_inj.symm, opField_toNat, encodeReserved_toNat, BitVec.toNat_ofNat]
  omega

/-- The fixed bits of a DECODE word, as a number (R53). -/
theorem decodeFormat_iff_toNat :
    opField req = 0b10#2 ∧ decodeReserved req = 0#14 ↔ req.toNat / 2 ^ 16 = 2 ^ 15 := by
  have hlt := req.isLt
  simp only [BitVec.toNat_inj.symm, opField_toNat, decodeReserved_toNat, BitVec.toNat_ofNat]
  omega

theorem exists_encode_iff_toNat :
    (∃ e0 e1 e2 e3, decodeWord req = some (.encode e0 e1 e2 e3)) ↔ req.toNat / 2 ^ 20 = 2 ^ 10 := by
  rw [← encodeFormat_iff_toNat]
  constructor
  · rintro ⟨e0, e1, e2, e3, h⟩
    obtain ⟨hop, hres, -⟩ := encodeFormat_of_decodeWord h
    exact ⟨hop, hres⟩
  · rintro ⟨hop, hres⟩
    exact ⟨_, _, _, _, decodeWord_of_encodeFormat hop hres⟩

theorem exists_decode_iff_toNat :
    (∃ code, decodeWord req = some (.decode code)) ↔ req.toNat / 2 ^ 16 = 2 ^ 15 := by
  rw [← decodeFormat_iff_toNat]
  constructor
  · rintro ⟨code, h⟩
    obtain ⟨hop, hres, -⟩ := decodeFormat_of_decodeWord h
    exact ⟨hop, hres⟩
  · rintro ⟨hop, hres⟩
    exact ⟨_, decodeWord_of_decodeFormat hop hres⟩

/-- An illegal word is one that is neither an ENCODE nor a DECODE word (R63). -/
theorem decodeWord_eq_none_iff :
    decodeWord req = none ↔
      ¬(∃ e0 e1 e2 e3, decodeWord req = some (.encode e0 e1 e2 e3)) ∧
      ¬∃ code, decodeWord req = some (.decode code) := by
  rcases decodeWord req with _ | ⟨e0, e1, e2, e3⟩ | code <;> simp

/-- No bit of a legal word is dropped: it is the word of the operation it decodes to. -/
theorem encodeWord_of_decodeWord {i : Instr} (h : decodeWord req = some i) : encodeWord i = req := by
  apply BitVec.eq_of_toNat_eq
  cases i with
  | encode e0 e1 e2 e3 =>
    have hfixed := exists_encode_iff_toNat.mp ⟨_, _, _, _, h⟩
    obtain ⟨-, -, rfl, rfl, rfl, rfl⟩ := encodeFormat_of_decodeWord h
    rw [encodeWord_encode_toNat, e0Field_toNat, e1Field_toNat, e2Field_toNat, e3Field_toNat]
    omega
  | decode code =>
    have hfixed := exists_decode_iff_toNat.mp ⟨_, h⟩
    obtain ⟨-, -, rfl⟩ := decodeFormat_of_decodeWord h
    rw [encodeWord_decode_toNat, codeField_toNat]
    omega

/-- The word of an operation has its format's fixed bits, and its fields are the operands. -/
theorem decodeWord_encodeWord (i : Instr) : decodeWord (encodeWord i) = some i := by
  cases i with
  | encode e0 e1 e2 e3 =>
    have hval := encodeWord_encode_toNat e0 e1 e2 e3
    obtain ⟨hop, hres⟩ := encodeFormat_iff_toNat.mpr
      (by omega : (encodeWord (.encode e0 e1 e2 e3)).toNat / 2 ^ 20 = 2 ^ 10)
    rw [decodeWord_of_encodeFormat hop hres]
    congr 2 <;> apply BitVec.eq_of_toNat_eq
    · rw [e0Field_toNat, hval]; omega
    · rw [e1Field_toNat, hval]; omega
    · rw [e2Field_toNat, hval]; omega
    · rw [e3Field_toNat, hval]; omega
  | decode code =>
    have hval := encodeWord_decode_toNat code
    obtain ⟨hop, hres⟩ := decodeFormat_iff_toNat.mpr
      (by omega : (encodeWord (.decode code)).toNat / 2 ^ 16 = 2 ^ 15)
    rw [decodeWord_of_decodeFormat hop hres]
    congr 2
    apply BitVec.eq_of_toNat_eq
    rw [codeField_toNat, hval]; omega

theorem decodeWord_eq_some_iff {i : Instr} : decodeWord req = some i ↔ encodeWord i = req :=
  ⟨encodeWord_of_decodeWord, fun h => h ▸ decodeWord_encodeWord i⟩

theorem encodeWord_injective : Function.Injective encodeWord := by
  intro i j h
  have hdec := decodeWord_encodeWord i
  rwa [h, decodeWord_encodeWord, Option.some_inj, eq_comm] at hdec

end decodeWord

/-! ### The opcode map (R67) -/

/-- A mask of ones from bit `k` up compares the value above that bit. -/
theorem and_highMask_eq_iff (req : Word) {k m : Nat} (hm : m * 2 ^ k < 2 ^ 32) :
    req &&& BitVec.allOnes 32 <<< k = BitVec.ofNat 32 (m * 2 ^ k) ↔ req.toNat / 2 ^ k = m := by
  have hle : req.toNat / 2 ^ k * 2 ^ k < 2 ^ 32 := (Nat.div_mul_le_self _ _).trans_lt req.isLt
  rw [← BitVec.shiftLeft_ushiftRight, ← BitVec.toNat_inj, BitVec.toNat_shiftLeft,
    BitVec.toNat_ushiftRight, BitVec.toNat_ofNat, Nat.shiftLeft_eq, Nat.shiftRight_eq_div_pow,
    Nat.mod_eq_of_lt hle, Nat.mod_eq_of_lt hm, Nat.mul_left_inj (by positivity)]

theorem and_encodeMask_eq_iff (req : Word) :
    (req &&& 0xFFF00000#32) = 0x40000000#32 ↔
      ∃ e0 e1 e2 e3, decodeWord req = some (.encode e0 e1 e2 e3) :=
  (and_highMask_eq_iff req (k := 20) (m := 2 ^ 10) (by decide)).trans
    exists_encode_iff_toNat.symm

theorem and_decodeMask_eq_iff (req : Word) :
    (req &&& 0xFFFF0000#32) = 0x80000000#32 ↔ ∃ code, decodeWord req = some (.decode code) :=
  (and_highMask_eq_iff req (k := 16) (m := 2 ^ 15) (by decide)).trans
    exists_decode_iff_toNat.symm

theorem encodeRow_hit_iff (req : Word) :
    encodeRow.hit req = true ↔ ∃ e0 e1 e2 e3, decodeWord req = some (.encode e0 e1 e2 e3) := by
  simpa [OpcodeRow.hit, encodeRow] using and_encodeMask_eq_iff req

theorem decodeRow_hit_iff (req : Word) :
    decodeRow.hit req = true ↔ ∃ code, decodeWord req = some (.decode code) := by
  simpa [OpcodeRow.hit, decodeRow] using and_decodeMask_eq_iff req

/-- A word decodes to at most one operation, so it matches at most one row. -/
theorem not_encode_and_decode (req : Word) :
    ¬((∃ e0 e1 e2 e3, decodeWord req = some (.encode e0 e1 e2 e3)) ∧
      ∃ code, decodeWord req = some (.decode code)) := by
  rintro ⟨⟨e0, e1, e2, e3, he⟩, code, hd⟩
  simp [he] at hd

theorem decodeWord_eq_none_iff_hit (req : Word) :
    decodeWord req = none ↔ ∀ row ∈ opcodeMap, row.hit req = false := by
  simp only [opcodeMap, List.forall_mem_cons, ← Bool.not_eq_true, encodeRow_hit_iff,
    decodeRow_hit_iff, decodeWord_eq_none_iff]
  simp

theorem row_hit_of_decodeWord {req : Word} {i : Instr} (h : decodeWord req = some i) :
    i.row.hit req = true := by
  cases i with
  | encode e0 e1 e2 e3 => exact (encodeRow_hit_iff req).mpr ⟨e0, e1, e2, e3, h⟩
  | decode code => exact (decodeRow_hit_iff req).mpr ⟨code, h⟩

/-- Settles O4: each row's mask compares exactly the fixed bits of its format. -/
theorem decodeFollowsOpcodeMap : Obligations.DecodeFollowsOpcodeMap := by
  refine ⟨and_encodeMask_eq_iff, and_decodeMask_eq_iff, ?_, ?_, ?_, rfl,
    decodeWord_eq_none_iff_hit, fun req i => row_hit_of_decodeWord⟩
  · intro req
    rw [and_encodeMask_eq_iff, and_decodeMask_eq_iff]
    exact not_encode_and_decode req
  · intro req e0 e1 e2 e3 h
    obtain ⟨-, -, rfl, rfl, rfl, rfl⟩ := encodeFormat_of_decodeWord h
    exact ⟨e0Field_toNat req, e1Field_toNat req, e2Field_toNat req, e3Field_toNat req⟩
  · intro req code h
    obtain ⟨-, -, rfl⟩ := decodeFormat_of_decodeWord h
    exact codeField_toNat req

/-! ### The numbers of legal and illegal words (R63) -/

/-- The words that decode to ENCODE. -/
def encodeWords : Set Word := { req | ∃ e0 e1 e2 e3, decodeWord req = some (.encode e0 e1 e2 e3) }

/-- The words that decode to DECODE. -/
def decodeWords : Set Word := { req | ∃ code, decodeWord req = some (.decode code) }

/-- The ENCODE word of a quadruple of elements. -/
def encodeWordOf (e : Element × Element × Element × Element) : Word :=
  encodeWord (.encode e.1 e.2.1 e.2.2.1 e.2.2.2)

/-- The DECODE word of a code. -/
def decodeWordOf (code : Code) : Word := encodeWord (.decode code)

theorem encodeWordOf_injective : Function.Injective encodeWordOf := by
  intro e f h
  simpa [Prod.ext_iff] using encodeWord_injective h

theorem decodeWordOf_injective : Function.Injective decodeWordOf := by
  intro c d h
  simpa using encodeWord_injective h

theorem encodeWords_eq_range : encodeWords = Set.range encodeWordOf := by
  ext req
  simp [encodeWords, encodeWordOf, decodeWord_eq_some_iff]

theorem decodeWords_eq_range : decodeWords = Set.range decodeWordOf := by
  ext req
  simp [decodeWords, decodeWordOf, decodeWord_eq_some_iff]

theorem card_bitVec (n : Nat) : Nat.card (BitVec n) = 2 ^ n := by
  rw [Nat.card_congr BitVec.equivFin.toEquiv, Nat.card_fin]

theorem encodeWords_ncard : encodeWords.ncard = 2 ^ 20 := by
  rw [encodeWords_eq_range, Set.ncard_range_of_injective encodeWordOf_injective]
  simp only [Nat.card_prod, card_bitVec]
  norm_num

theorem decodeWords_ncard : decodeWords.ncard = 2 ^ 16 := by
  rw [decodeWords_eq_range, Set.ncard_range_of_injective decodeWordOf_injective, card_bitVec]

theorem illegalWords_ncard : { req : Word | decodeWord req = none }.ncard = 2 ^ 32 - 2 ^ 20 - 2 ^ 16 := by
  have hillegal : { req : Word | decodeWord req = none } = (encodeWords ∪ decodeWords)ᶜ := by
    ext req
    simp only [Set.mem_compl_iff, Set.mem_union, not_or]
    exact decodeWord_eq_none_iff
  have hdisj : Disjoint encodeWords decodeWords :=
    Set.disjoint_left.mpr fun req he hd => not_encode_and_decode req ⟨he, hd⟩
  rw [hillegal, Set.ncard_compl, Set.ncard_union_eq hdisj, encodeWords_ncard, decodeWords_ncard,
    card_bitVec, Nat.sub_add_eq]

end Sys2Proof

namespace Sys2Proof.Machine

/-- An illegal word is answered with ERR_ILLEGAL, a draw of `ANY32` and nothing else (R54, R55). -/
theorem runRequest_of_illegal {req : Word} (h : decodeWord req = none) (s : State) :
    runRequest req s = .next { s with offer := some ⟨s.any32, .errIllegal⟩ } := by
  rw [runRequest_eq_respond, responseOf_of_illegal h]
  rfl

/-- Settles O5: `encodeWord` numbers the legal words by their operands, and the rest is the
complement. -/
theorem legalWordsAreCounted : Obligations.LegalWordsAreCounted :=
  ⟨(Nat.card_coe_set_eq _).trans encodeWords_ncard, (Nat.card_coe_set_eq _).trans decodeWords_ncard,
    (Nat.card_coe_set_eq _).trans illegalWords_ncard,
    fun _ s h => ⟨s.any32, runRequest_of_illegal h s⟩⟩

/-- Settles O6: neither format has a reserved `OP`. -/
theorem reservedOpcodesAreIllegal : Obligations.ReservedOpcodesAreIllegal := by
  intro req s hop
  have h1 : opField req ≠ 0b01#2 := by rcases hop with h | h <;> simp [opField, h]
  have h2 : opField req ≠ 0b10#2 := by rcases hop with h | h <;> simp [opField, h]
  exact ⟨s.any32, runRequest_of_illegal (decodeWord_of_reservedOp h1 h2) s⟩

/-! ### The choice count grows (R70, R83) -/

theorem cc_le_cc {m n r : Nat} (hmn : m ≤ n) (hn : n ≤ 32) (h1 : 1 ≤ r) (h4 : r ≤ 4) :
    cc m r ≤ cc n r := by
  rw [cc_eq_choose (hmn.trans hn) h1 h4, cc_eq_choose hn h1 h4]
  exact Nat.choose_le_choose r (by omega)

theorem lt_of_cc_lt_cc {m n r : Nat} (h : cc m r < cc n r) (hm : m ≤ 32) (h1 : 1 ≤ r) (h4 : r ≤ 4) :
    m < n := by
  by_contra hle
  exact absurd (cc_le_cc (not_lt.mp hle) hm h1 h4) (not_le.mpr h)

/-- Pascal's rule: one more value adds the choices of one element fewer. -/
theorem cc_succ_succ {n r : Nat} (hn : n + 1 ≤ 32) (h1 : 1 ≤ r) (h4 : r + 1 ≤ 4) :
    cc (n + 1) (r + 1) = cc n (r + 1) + cc (n + 1) r := by
  rw [cc_eq_choose hn (by omega) h4, cc_eq_choose (by omega) (by omega) h4,
    cc_eq_choose hn h1 (by omega), show n + 1 + (r + 1) - 1 = n + r + 1 by omega,
    show n + (r + 1) - 1 = n + r by omega, show n + 1 + r - 1 = n + r by omega,
    Nat.choose_succ_succ, Nat.add_comm]

/-! ### Four values have one descending order (R91) -/

theorem Quad.Descending.sortedGE {q : Quad} (h : q.Descending) : q.toList.SortedGE := by
  obtain ⟨h01, h12, h23⟩ := h
  exact List.Pairwise.sortedGE (by simp [Quad.toList]; omega)

theorem Quad.toList_injective : Function.Injective Quad.toList := by
  rintro ⟨a, b, c, d⟩ ⟨a', b', c', d'⟩ h
  simpa [Quad.toList] using h

theorem sortDesc_eq_of_perm {q : Quad} {a b c d : Nat} (hq : q.Descending)
    (h : q.toList.Perm [a, b, c, d]) : sortDesc a b c d = q :=
  Quad.toList_injective <| ((sortDesc_perm a b c d).trans h.symm).eq_of_sortedGE
    (sortDesc_descending a b c d).sortedGE hq.sortedGE

/-! ### ENCODE (R90 to R95) -/

section encode
variable {e0 e1 e2 e3 : Element} {q : Quad}

theorem exec_encode (e0 e1 e2 e3 : Element) (s : State) :
    exec (.encode e0 e1 e2 e3) s = .next { s with offer := some (encodeResponse e0 e1 e2 e3) } := rfl

theorem encodeValue_eq_digitSum (hq : q.Descending)
    (h : q.toList.Perm [e0.toNat, e1.toNat, e2.toNat, e3.toNat]) :
    encodeValue e0 e1 e2 e3 = digitSum q :=
  congrArg digitSum (sortDesc_eq_of_perm hq h)

theorem v0_le_of_perm (h : q.toList.Perm [e0.toNat, e1.toNat, e2.toNat, e3.toNat]) : q.v0 ≤ 31 := by
  have hmem : q.v0 ∈ [e0.toNat, e1.toNat, e2.toNat, e3.toNat] := h.subset (by simp [Quad.toList])
  simp only [List.mem_cons, List.not_mem_nil, or_false] at hmem
  omega

/-- The largest code is that of four elements 31 (R93). -/
theorem digitSum_le (hq : q.Descending) (h31 : q.v0 ≤ 31) : digitSum q ≤ 52359 := by
  obtain ⟨h01, h12, h23⟩ := hq
  have h4 : cc q.v0 4 ≤ cc 31 4 := cc_le_cc h31 (by decide) (by decide) (by decide)
  have h3 : cc q.v1 3 ≤ cc 31 3 := cc_le_cc (by omega) (by decide) (by decide) (by decide)
  have h2 : cc q.v2 2 ≤ cc 31 2 := cc_le_cc (by omega) (by decide) (by decide) (by decide)
  have hmax : cc 31 4 + cc 31 3 + cc 31 2 + 31 = 52359 := by decide +kernel
  unfold digitSum
  omega

theorem encodeResponse_eq (hq : q.Descending)
    (h : q.toList.Perm [e0.toNat, e1.toNat, e2.toNat, e3.toNat]) :
    encodeResponse e0 e1 e2 e3 = ⟨codeData (digitSum q), .ok⟩ := by
  rw [encodeResponse, encodeValue_eq_digitSum hq h]

/-- The data word of ENCODE, as a number (R57). -/
theorem codeData_digitSum_toNat (hq : q.Descending) (h31 : q.v0 ≤ 31) :
    (codeData (digitSum q)).toNat = digitSum q :=
  codeData_toNat ((digitSum_le hq h31).trans_lt (by decide))

end encode

/-- Settles O15: the sort finds the one descending order of the elements. -/
theorem encodeRespondsWithDigitSum : Obligations.EncodeRespondsWithDigitSum := by
  intro e0 e1 e2 e3 v0 v1 v2 v3 s hperm h01 h12 h23
  have hq : Quad.Descending ⟨v0, v1, v2, v3⟩ := ⟨h01, h12, h23⟩
  have h31 : v0 ≤ 31 := v0_le_of_perm (q := ⟨v0, v1, v2, v3⟩) hperm
  have hval := codeData_digitSum_toNat hq h31
  refine ⟨codeData (digitSum ⟨v0, v1, v2, v3⟩), ?_, hval, ?_⟩
  · rw [exec_encode, encodeResponse_eq hq hperm]
  · rw [hval]
    exact digitSum_le hq h31

/-! ### The search of DECODE (R103, R104) -/

/-- The values a search of stage `r` may return: 5-bit values whose choice count fits the remainder. -/
def fitting (rem r : Nat) : Set Nat := { lo | lo < 32 ∧ cc lo r ≤ rem }

/-- The search between two probes: `lo` fits, and every fitting value is less than `width` above
where `lo` stands. -/
structure SearchInv (rem r width : Nat) (st : SearchState) : Prop where
  floor_eq : st.floor = cc st.lo r
  floor_le : st.floor ≤ rem
  le_top : st.lo + width ≤ 32
  below : ∀ x ∈ fitting rem r, x < st.lo + width

section search
variable {rem r : Nat}

theorem searchInv_start (h1 : 1 ≤ r) (h4 : r ≤ 4) : SearchInv rem r 32 ⟨0, 0⟩ where
  floor_eq := (cc_zero h1 h4).symm
  floor_le := Nat.zero_le rem
  le_top := le_rfl
  below x hx := by simpa using hx.1

/-- A probe halves the width: the fitting values lie on one side of the candidate, as `cc` grows. -/
theorem searchInv_probe {st : SearchState} {step : Nat} (h1 : 1 ≤ r) (h4 : r ≤ 4)
    (h : SearchInv rem r (2 * step) st) : SearchInv rem r step (probe rem r st step) := by
  obtain ⟨hfloor, hfloorle, htop, hbelow⟩ := h
  rcases probe_cases rem r step st with ⟨hfits, heq⟩ | ⟨hexceeds, heq⟩ <;> rw [heq]
  · refine ⟨rfl, hfits, by dsimp only; omega, fun x hx => ?_⟩
    have hx32 := hbelow x hx
    dsimp only
    omega
  · refine ⟨hfloor, hfloorle, by omega, fun x hx => ?_⟩
    obtain ⟨hx32, hxfits⟩ := hx
    exact lt_of_cc_lt_cc (hxfits.trans_lt hexceeds) (by omega) h1 h4

theorem searchAfter_append_singleton (steps : List Nat) (step : Nat) :
    searchAfter rem r (steps ++ [step]) = probe rem r (searchAfter rem r steps) step := by
  simp [searchAfter]

theorem searchSteps_getElem : ∀ (k : Nat) (h : k < searchSteps.length), searchSteps[k] = 2 ^ (4 - k) := by
  decide

theorem searchInv_searchAfter (h1 : 1 ≤ r) (h4 : r ≤ 4) {k : Nat} (hk : k ≤ 5) :
    SearchInv rem r (2 ^ (5 - k)) (searchAfter rem r (searchSteps.take k)) := by
  induction k with
  | zero => exact searchInv_start h1 h4
  | succ k ih =>
    have hlt : k < searchSteps.length := hk
    rw [← List.take_concat_get' _ _ hlt, searchAfter_append_singleton, searchSteps_getElem k hlt,
      show 5 - (k + 1) = 4 - k by omega]
    apply searchInv_probe h1 h4
    rw [← Nat.pow_succ', show (4 - k).succ = 5 - k by omega]
    exact ih (by omega)

theorem searchInv_search (h1 : 1 ≤ r) (h4 : r ≤ 4) : SearchInv rem r 1 (search rem r) :=
  searchInv_searchAfter h1 h4 (k := 5) le_rfl

theorem search_floor (h1 : 1 ≤ r) (h4 : r ≤ 4) : (search rem r).floor = cc (search rem r).lo r :=
  (searchInv_search h1 h4).floor_eq

theorem search_isGreatest (h1 : 1 ≤ r) (h4 : r ≤ 4) :
    IsGreatest (fitting rem r) (search rem r).lo := by
  obtain ⟨hfloor, hle, htop, hbelow⟩ := searchInv_search (rem := rem) h1 h4
  exact ⟨⟨by omega, hfloor ▸ hle⟩, fun x hx => Nat.le_of_lt_succ (hbelow x hx)⟩

end search

/-! ### The digits of a code (R102 to R108) -/

/-- The digits are the largest that fit, stage by stage, and the last is what remains. -/
structure LargestDigits (code : Nat) (q : Quad) : Prop where
  v0 : IsGreatest (fitting code 4) q.v0
  v1 : IsGreatest (fitting (code - cc q.v0 4) 3) q.v1
  v2 : IsGreatest (fitting (code - cc q.v0 4 - cc q.v1 3) 2) q.v2
  v3 : q.v3 = code - cc q.v0 4 - cc q.v1 3 - cc q.v2 2

theorem decodeDigits_largest (code : Nat) : LargestDigits code (decodeDigits code) := by
  simp only [decodeDigits, search_floor (r := 4) (by decide) (by decide),
    search_floor (r := 3) (by decide) (by decide), search_floor (r := 2) (by decide) (by decide)]
  constructor <;> dsimp only
  · exact search_isGreatest (by decide) (by decide)
  · exact search_isGreatest (by decide) (by decide)
  · exact search_isGreatest (by decide) (by decide)

/-- One stage: below the choice count of `b + 1` the digit is at most `b`, and by Pascal's rule what
remains is below the next stage's choice count of one more than the digit. -/
theorem stage_bounds {rem r b d : Nat} (hd : IsGreatest (fitting rem (r + 1)) d) (h1 : 1 ≤ r)
    (h3 : r ≤ 3) (hb : b ≤ 31) (hrem : rem < cc (b + 1) (r + 1)) :
    d ≤ b ∧ rem - cc d (r + 1) < cc (d + 1) r := by
  obtain ⟨⟨hd32, hfits⟩, hmax⟩ := hd
  have hdb : d < b + 1 :=
    lt_of_cc_lt_cc (hfits.trans_lt hrem) (by omega) (by omega) (by omega)
  have hnext : rem < cc (d + 1) (r + 1) := by
    rcases Nat.lt_or_ge d b with hlt | hge
    · by_contra hle
      have hgreater := hmax (show d + 1 ∈ fitting rem (r + 1) from ⟨by omega, not_lt.mp hle⟩)
      omega
    · rwa [show d = b by omega]
  have hpascal := cc_succ_succ (n := d) (by omega) h1 (by omega : r + 1 ≤ 4)
  omega

section LargestDigits
variable {code : Nat} {q : Quad}

theorem LargestDigits.descending (h : LargestDigits code q) (hcode : code < 52360) :
    q.v0 ≤ 31 ∧ q.Descending := by
  obtain ⟨h0, h1, h2, h3⟩ := h
  have hrem4 : code < cc (31 + 1) 4 := hcode.trans_eq nCodes_eq_cc
  obtain ⟨hv0, hrem3⟩ := stage_bounds h0 (by decide) (by decide) (by decide) hrem4
  obtain ⟨hv1, hrem2⟩ := stage_bounds h1 (by decide) (by decide) hv0 hrem3
  obtain ⟨hv2, hrem1⟩ := stage_bounds h2 (by decide) (by decide) (by omega) hrem2
  rw [cc_one (by omega), ← h3] at hrem1
  exact ⟨hv0, hv1, hv2, by omega⟩

theorem LargestDigits.digitSum_eq (h : LargestDigits code q) : digitSum q = code := by
  have h0 : cc q.v0 4 ≤ code := h.v0.1.2
  have h1 : cc q.v1 3 ≤ code - cc q.v0 4 := h.v1.1.2
  have h2 : cc q.v2 2 ≤ code - cc q.v0 4 - cc q.v1 3 := h.v2.1.2
  have h3 := h.v3
  unfold digitSum
  omega

end LargestDigits

/-! ### DECODE of a valid code (R58, R100, R105) -/

theorem exec_decode (code : Code) (s : State) :
    exec (.decode code) s = .next { s with offer := some (decodeResponse code s.any32) } := rfl

theorem codeOutOfRange_eq_false_iff {code : Nat} : codeOutOfRange code = false ↔ code < 52360 :=
  decide_eq_false_iff_not.trans not_le

theorem decodeResponse_of_lt {code : Code} (h : code.toNat < 52360) (any : Word) :
    decodeResponse code any = ⟨digitData (decodeDigits code.toNat), .ok⟩ :=
  decodeResponse_of_inRange (codeOutOfRange_eq_false_iff.mpr h) any

/-- The value of the digits of a descending quadruple in their places (R58). -/
theorem digitData_toNat_of_descending {q : Quad} (hq : q.Descending) (h31 : q.v0 ≤ 31) :
    (digitData q).toNat = q.v3 * 2 ^ 15 + q.v2 * 2 ^ 10 + q.v1 * 2 ^ 5 + q.v0 := by
  obtain ⟨h01, h12, h23⟩ := hq
  exact digitData_toNat (by omega) (by omega) (by omega) (by omega)

/-- Settles O21: the search of each stage returns the largest digit that fits. -/
theorem decodeRespondsWithLargestDigits : Obligations.DecodeRespondsWithLargestDigits := by
  intro code s hcode
  have hlargest := decodeDigits_largest code.toNat
  obtain ⟨h31, hdesc⟩ := hlargest.descending hcode
  have hsum := hlargest.digitSum_eq
  generalize hq : decodeDigits code.toNat = q at *
  obtain ⟨h01, h12, h23⟩ := hdesc
  refine ⟨digitData q, q.v0, q.v1, q.v2, q.v3, ?_, digitData_toNat_of_descending ⟨h01, h12, h23⟩ h31,
    hlargest.v0, hlargest.v1, hlargest.v2, hsum.symm, h23, h12, h01, h31⟩
  rw [exec_decode, decodeResponse_of_lt hcode, hq]

/-! ### DECODE data encodes back (R64) -/

theorem append_or_zeros (x y : BitVec 12) (a b c d : Element) :
    (x ++ a ++ b ++ c ++ d) ||| (y ++ 0#5 ++ 0#5 ++ 0#5 ++ 0#5) = (x ||| y) ++ a ++ b ++ c ++ d := by
  simp only [BitVec.or_append, BitVec.or_zero]

/-- The digits stand where ENCODE has its elements, and the word's other bits are ENCODE's. -/
theorem digitData_or_encodeOp (q : Quad) :
    digitData q ||| 0x40000000#32 =
      encodeWord (.encode (.ofNat 5 q.v0) (.ofNat 5 q.v1) (.ofNat 5 q.v2) (.ofNat 5 q.v3)) :=
  append_or_zeros 0x000#12 0x400#12 _ _ _ _

theorem decodeWord_digitData_or (q : Quad) :
    decodeWord (digitData q ||| 0x40000000#32) =
      some (.encode (.ofNat 5 q.v0) (.ofNat 5 q.v1) (.ofNat 5 q.v2) (.ofNat 5 q.v3)) := by
  rw [digitData_or_encodeOp, decodeWord_encodeWord]

/-- Each digit fits its element. -/
theorem toList_perm_elements {q : Quad} (hq : q.Descending) (h31 : q.v0 ≤ 31) :
    q.toList.Perm [(BitVec.ofNat 5 q.v0).toNat, (BitVec.ofNat 5 q.v1).toNat,
      (BitVec.ofNat 5 q.v2).toNat, (BitVec.ofNat 5 q.v3).toNat] := by
  obtain ⟨h01, h12, h23⟩ := hq
  simp only [BitVec.toNat_ofNat, Quad.toList]
  rw [Nat.mod_eq_of_lt, Nat.mod_eq_of_lt, Nat.mod_eq_of_lt, Nat.mod_eq_of_lt] <;> omega

/-- An OK response of DECODE is that of a valid code (R101). -/
theorem lt_of_decodeResponse_ok {code : Code} {any digits : Word}
    (h : decodeResponse code any = ⟨digits, .ok⟩) :
    code.toNat < 52360 ∧ digits = digitData (decodeDigits code.toNat) := by
  cases hrange : codeOutOfRange (codeValue code) with
  | true => simp [decodeResponse_of_outOfRange hrange] at h
  | false =>
    have hcode : code.toNat < 52360 := codeOutOfRange_eq_false_iff.mp hrange
    rw [decodeResponse_of_lt hcode] at h
    exact ⟨hcode, (congrArg Response.data h).symm⟩

/-- Settles O27: the ORed word is the word of ENCODE on the digits, and their digit sum is the code. -/
theorem decodedDataReencodes : Obligations.DecodedDataReencodes := by
  intro code s t u digits hexec hoffer
  rw [exec_decode] at hexec
  cases hexec
  obtain ⟨hcode, rfl⟩ := lt_of_decodeResponse_ok (Option.some.inj hoffer)
  have hlargest := decodeDigits_largest code.toNat
  obtain ⟨h31, hdesc⟩ := hlargest.descending hcode
  have hdecode := decodeWord_digitData_or (decodeDigits code.toNat)
  refine ⟨⟨_, _, _, _, hdecode⟩, codeData code.toNat, ?_, codeData_toNat (by omega)⟩
  rw [runRequest_eq_respond, responseOf_of_encode hdecode,
    encodeResponse_eq hdesc (toList_perm_elements hdesc h31), hlargest.digitSum_eq]
  rfl

end Sys2Proof.Machine
end

section
/-! PROOFS. The choice count (40_choice_count.md): its cases without remainders, its growth in both
arguments, its table, and the reciprocal division by 3. -/

namespace Sys2Proof.Machine

/-- Settles O9: Mathlib counts the multisets by the same binomial coefficient. -/
theorem choiceCountCountsMultisets : Obligations.ChoiceCountCountsMultisets := by
  intro n r hn h1 h4
  have hchoose := cc_eq_choose hn h1 h4
  refine ⟨hchoose, ?_⟩
  rw [Sym.card_sym_eq_choose, Fintype.card_fin, hchoose]

/-! ### The cases (R72 to R80) -/

section caseRules
variable {n r : Nat}

theorem cc_one_left (h1 : 1 ≤ r) (h4 : r ≤ 4) : cc 1 r = 1 := by
  rw [cc_eq_choose (by decide) h1 h4, Nat.add_sub_cancel_left, Nat.choose_self]

theorem cc_two_left (h1 : 1 ≤ r) (h4 : r ≤ 4) : cc 2 r = r + 1 := by
  rw [cc_eq_choose (by decide) h1 h4, show 2 + r - 1 = r + 1 by omega,
    Nat.choose_succ_self_right]

/-- The half product of case `n = 3` has no remainder (R75, R80). -/
theorem two_mul_cc_three_left (h1 : 1 ≤ r) (h4 : r ≤ 4) : 2 * cc 3 r = (r + 1) * (r + 2) := by
  have hstep := Nat.add_one_mul_choose_eq (r + 1) 1
  rw [cc_eq_choose (by decide) h1 h4, show 3 + r - 1 = r + 2 by omega, Nat.choose_symm_add]
  rw [Nat.choose_one_right] at hstep
  linarith

/-- One element more multiplies by `n + r` and divides by `r + 1`, without a remainder: the step from
each of the cases `r = 1, 2, 3` to the next (R77 to R80). -/
theorem succ_mul_cc_succ (hn : n ≤ 32) (h1 : 1 ≤ r) (h4 : r + 1 ≤ 4) :
    (r + 1) * cc n (r + 1) = cc n r * (n + r) := by
  have hstep := Nat.add_one_mul_choose_eq (n + r - 1) r
  rw [Nat.sub_add_cancel (by omega)] at hstep
  rw [cc_eq_choose hn (by omega) h4, cc_eq_choose hn h1 (by omega), ← Nat.add_assoc,
    Nat.add_sub_cancel, Nat.mul_comm, ← hstep, Nat.mul_comm]

end caseRules

/-- Settles O10: for `n` from 4 the three quotients are one step, `succ_mul_cc_succ`, at `r = 1, 2, 3`. -/
theorem choiceCountDivisionsAreExact : Obligations.ChoiceCountDivisionsAreExact := by
  refine ⟨fun r h1 h4 => ⟨cc_zero h1 h4, cc_one_left h1 h4, cc_two_left h1 h4,
    two_mul_cc_three_left h1 h4⟩, fun n _ hn => ⟨cc_one hn, ?_, ?_, ?_⟩⟩
  · simpa [cc_one hn] using succ_mul_cc_succ hn (r := 1) (by decide) (by decide)
  · exact succ_mul_cc_succ hn (by decide) (by decide)
  · exact succ_mul_cc_succ hn (by decide) (by decide)

/-! ### Growth in both arguments (R82, R83) -/

section growth
variable {m n r r' : Nat}

/-- By Pascal's rule one more value adds the choices of one element fewer, of which there is at least
one. -/
theorem cc_lt_cc_succ (hn : n + 1 ≤ 32) (h1 : 1 ≤ r) (h4 : r ≤ 4) : cc n r < cc (n + 1) r := by
  obtain ⟨k, rfl⟩ := Nat.exists_eq_add_one.mpr h1
  rw [cc_eq_choose (by omega) h1 h4, cc_eq_choose hn h1 h4, ← Nat.add_assoc, ← Nat.add_assoc,
    Nat.add_sub_cancel, Nat.add_sub_cancel, Nat.add_right_comm, Nat.choose_succ_succ]
  exact Nat.lt_add_of_pos_left (Nat.choose_pos (Nat.le_add_left k n))

theorem cc_lt_cc (hmn : m < n) (hn : n ≤ 32) (h1 : 1 ≤ r) (h4 : r ≤ 4) : cc m r < cc n r :=
  (cc_lt_cc_succ (hmn.trans_le hn) h1 h4).trans_le (cc_le_cc hmn hn h1 h4)

/-- With at least one value, larger multisets are at least as many. -/
theorem cc_le_cc_right (hpos : 0 < n) (hn : n ≤ 32) (hrr : r ≤ r') (h1 : 1 ≤ r) (h4 : r' ≤ 4) :
    cc n r ≤ cc n r' := by
  obtain ⟨k, rfl⟩ := Nat.exists_eq_add_one.mpr hpos
  have hcols (j : Nat) : (k + 1 + j - 1).choose j = (k + j).choose k := by
    rw [Nat.choose_symm_add, Nat.add_right_comm, Nat.add_sub_cancel]
  rw [cc_eq_choose hn h1 (hrr.trans h4), cc_eq_choose hn (h1.trans hrr) h4, hcols, hcols]
  exact Nat.choose_le_choose k (by omega)

end growth

/-- Settles O11: the largest value stands at the largest of both arguments. -/
theorem choiceCountGrowsWithinSixteenBits : Obligations.ChoiceCountGrowsWithinSixteenBits := by
  have hmax : cc 32 4 = 52360 := nCodes_eq_cc.symm
  refine ⟨fun _ _ _ hmn hn h1 h4 => cc_lt_cc hmn hn h1 h4, fun n r hn h1 h4 => ?_, hmax, ?_⟩
  · calc cc n r ≤ cc 32 r := cc_le_cc hn le_rfl h1 h4
      _ ≤ cc 32 4 := cc_le_cc_right (by decide) le_rfl h4 h1 le_rfl
  · rw [hmax]; decide

/-! ### The table (R85, R86) -/

/-- The rows as written are those the case algorithm computes. -/
theorem choiceCountTable_eq_map :
    choiceCountTable = (List.range 33).map fun n => [1, 2, 3, 4].map (ccCases n) := by
  decide +kernel

theorem tableEntry_eq_cc {n r : Nat} (hn : n ≤ 32) (h1 : 1 ≤ r) (h4 : r ≤ 4) :
    tableEntry n r = some (cc n r) := by
  have hrow : choiceCountTable[n]? = some ([1, 2, 3, 4].map (ccCases n)) := by
    rw [choiceCountTable_eq_map, List.getElem?_map, List.getElem?_range (by omega), Option.map_some]
  rw [cc_of_domain hn h1 h4]
  interval_cases r <;> simp [tableEntry, hrow]

/-- Settles O12: the table is the case algorithm's, and the algorithm is `cc` on the domain. -/
theorem choiceCountTableIsExact : Obligations.ChoiceCountTableIsExact :=
  ⟨fun _ _ hn h1 h4 => tableEntry_eq_cc hn h1 h4, fun _ hn => cc_one hn,
    fun _ h1 h4 => ⟨cc_zero h1 h4, cc_one_left h1 h4⟩, nCodes_eq_cc.symm⟩

/-! ### The reciprocal division by 3 (R87) -/

/-- When the reciprocal division of `x` gives `q`, as two linear bounds on the product. -/
theorem reciprocalDiv3_eq_iff {k x q : Nat} :
    reciprocalDiv3 k x = q ↔ q * 65536 ≤ x * k ∧ x * k < (q + 1) * 65536 := by
  rw [reciprocalDiv3, Nat.shiftRight_eq_div_pow, Nat.div_eq_iff (by decide)]
  omega

/-- The dividends of rule R78 are three times a choice count. -/
theorem dividend_eq {n : Nat} (hn : n ≤ 32) : cc n 2 * (n + 2) = 3 * cc n 3 :=
  (succ_mul_cc_succ hn (by decide) (by decide)).symm

theorem cc_32_3 : cc 32 3 = 5984 := by decide +kernel

/-- The three constants are exact up to the largest quotient. -/
theorem reciprocalDiv3_three_mul {k m : Nat} (hk : k = 0x5556 ∨ k = 0x5557 ∨ k = 0x5558)
    (hm : m ≤ 5984) : reciprocalDiv3 k (3 * m) = m := by
  rw [reciprocalDiv3_eq_iff]
  rcases hk with rfl | rfl | rfl <;> omega

/-- At the largest quotient no other constant is exact. -/
theorem constant_of_reciprocalDiv3_max {k : Nat} (h : reciprocalDiv3 k (3 * 5984) = 5984) :
    k = 0x5556 ∨ k = 0x5557 ∨ k = 0x5558 := by
  rw [reciprocalDiv3_eq_iff] at h
  omega

/-- Settles O14: the largest dividend alone excludes every other constant. -/
theorem reciprocalDivisionConstants : Obligations.ReciprocalDivisionConstants := by
  have hle {n : Nat} (hn : n ≤ 32) : cc n 3 ≤ 5984 :=
    (cc_le_cc hn le_rfl (by decide) (by decide)).trans_eq cc_32_3
  refine ⟨fun n _ hn => ?_, ?_, fun k _ => ⟨fun hexact => ?_, fun hk n _ hn => ?_⟩,
    fun m hpos hm => ?_, fun m hm => ?_⟩
  · rw [dividend_eq hn]
    exact ⟨dvd_mul_right .., Nat.mul_le_mul_left 3 (hle hn)⟩
  · rw [dividend_eq le_rfl, cc_32_3]
  · have hmax := hexact 32 (by decide) le_rfl
    rw [dividend_eq le_rfl, Nat.mul_div_cancel_left _ (by decide), cc_32_3] at hmax
    exact constant_of_reciprocalDiv3_max hmax
  · rw [dividend_eq hn, Nat.mul_div_cancel_left _ (by decide)]
    exact reciprocalDiv3_three_mul hk (hle hn)
  · rw [reciprocalDiv3_eq_iff]; omega
  · rw [reciprocalDiv3_eq_iff]; omega

end Sys2Proof.Machine
end

section
/-! PROOFS. ENCODE (41_encode.md): the range of its codes, the order of its elements, and the bijection
of multisets onto codes. -/

namespace Sys2Proof.Machine

/-! ### The elements as one descending quadruple (R91, R93, R94) -/

section sorted
variable (e0 e1 e2 e3 f0 f1 f2 f3 : Element)

/-- The elements as naturals in descending order (R91). -/
def sortedElements : Quad :=
  sortDesc (elementValue e0) (elementValue e1) (elementValue e2) (elementValue e3)

theorem sortedElements_descending : (sortedElements e0 e1 e2 e3).Descending :=
  sortDesc_descending ..

theorem sortedElements_perm :
    (sortedElements e0 e1 e2 e3).toList.Perm ([e0, e1, e2, e3].map BitVec.toNat) :=
  sortDesc_perm ..

theorem sortedElements_v0_le : (sortedElements e0 e1 e2 e3).v0 ≤ 31 :=
  v0_le_of_perm (sortedElements_perm ..)

theorem encodeValue_eq_digitSum_sortedElements :
    encodeValue e0 e1 e2 e3 = digitSum (sortedElements e0 e1 e2 e3) := rfl

theorem encodeValue_le : encodeValue e0 e1 e2 e3 ≤ 52359 :=
  digitSum_le (sortedElements_descending ..) (sortedElements_v0_le ..)

variable {e0 e1 e2 e3 f0 f1 f2 f3}

/-- The descending order of the elements determines their multiset, and only that (R94). -/
theorem sortedElements_eq_iff_perm :
    sortedElements e0 e1 e2 e3 = sortedElements f0 f1 f2 f3 ↔
      [e0, e1, e2, e3].Perm [f0, f1, f2, f3] := by
  have he := sortedElements_perm e0 e1 e2 e3
  have hf := sortedElements_perm f0 f1 f2 f3
  constructor
  · intro h
    rw [h] at he
    exact (List.map_perm_map_iff fun _ _ => BitVec.eq_of_toNat_eq).mp (he.symm.trans hf)
  · intro h
    exact sortDesc_eq_of_perm (sortedElements_descending ..) (hf.trans (h.symm.map BitVec.toNat))

end sorted

/-! ### The digits of a digit sum (R97)

The converse of `stage_bounds`: what stands below a digit is too small for a larger one, so the digits
of a descending quadruple are the largest that fit in its digit sum. -/

section digits
variable {code rem r b d : Nat} {q q' : Quad}

theorem isGreatest_fitting (hd : d ≤ 31) (h1 : 1 ≤ r) (h4 : r ≤ 4) (hle : cc d r ≤ rem)
    (hlt : rem < cc (d + 1) r) : IsGreatest (fitting rem r) d :=
  ⟨⟨by omega, hle⟩, fun _ ⟨hx32, hxfits⟩ =>
    Nat.le_of_lt_succ (lt_of_cc_lt_cc (hxfits.trans_lt hlt) (by omega) h1 h4)⟩

/-- A digit and what stands below it stay below the choice count of one more than the digit, by Pascal's
rule, when what stands below it does so for a digit that is not larger. -/
theorem cc_add_lt_cc_succ (hdb : d ≤ b) (hb : b ≤ 31) (h1 : 1 ≤ r) (h3 : r ≤ 3)
    (hrem : rem < cc (d + 1) r) : cc b (r + 1) + rem < cc (b + 1) (r + 1) := by
  have hgrow : cc (d + 1) r ≤ cc (b + 1) r := cc_le_cc (by omega) (by omega) h1 (by omega)
  have hpascal := cc_succ_succ (n := b) (by omega) h1 (by omega : r + 1 ≤ 4)
  omega

theorem largestDigits_digitSum (hq : q.Descending) (h31 : q.v0 ≤ 31) :
    LargestDigits (digitSum q) q := by
  obtain ⟨h01, h12, h23⟩ := hq
  have hrem1 : q.v3 < cc (q.v3 + 1) 1 := by rw [cc_one (by omega)]; omega
  have hrem2 : cc q.v2 2 + q.v3 < cc (q.v2 + 1) 2 :=
    cc_add_lt_cc_succ h23 (by omega) (by decide) (by decide) hrem1
  have hrem3 : cc q.v1 3 + (cc q.v2 2 + q.v3) < cc (q.v1 + 1) 3 :=
    cc_add_lt_cc_succ h12 (by omega) (by decide) (by decide) hrem2
  have hrem4 : cc q.v0 4 + (cc q.v1 3 + (cc q.v2 2 + q.v3)) < cc (q.v0 + 1) 4 :=
    cc_add_lt_cc_succ h01 h31 (by decide) (by decide) hrem3
  unfold digitSum
  constructor
  · exact isGreatest_fitting h31 (by decide) (by decide) (by omega) (by omega)
  · exact isGreatest_fitting (by omega) (by decide) (by decide) (by omega) (by omega)
  · exact isGreatest_fitting (by omega) (by decide) (by decide) (by omega) (by omega)
  · omega

/-- The largest digit that fits is one number, stage by stage. -/
theorem LargestDigits.unique (h : LargestDigits code q) (h' : LargestDigits code q') : q = q' := by
  obtain ⟨h0, h1, h2, h3⟩ := h
  obtain ⟨h0', h1', h2', h3'⟩ := h'
  have hv0 : q.v0 = q'.v0 := h0.unique h0'
  rw [hv0] at h1 h2 h3
  have hv1 : q.v1 = q'.v1 := h1.unique h1'
  rw [hv1] at h2 h3
  have hv2 : q.v2 = q'.v2 := h2.unique h2'
  rw [hv2, ← h3'] at h3
  exact Quad.toList_injective (by simp only [Quad.toList, hv0, hv1, hv2, h3])

theorem eq_of_digitSum_eq (hq : q.Descending) (h31 : q.v0 ≤ 31) (hq' : q'.Descending)
    (h31' : q'.v0 ≤ 31) (h : digitSum q = digitSum q') : q = q' :=
  (largestDigits_digitSum hq h31).unique (h ▸ largestDigits_digitSum hq' h31')

end digits

/-! ### The bijection of multisets and codes (R97) -/

section bijection
variable {e0 e1 e2 e3 f0 f1 f2 f3 : Element}

theorem encodeValue_eq_iff_perm :
    encodeValue e0 e1 e2 e3 = encodeValue f0 f1 f2 f3 ↔ [e0, e1, e2, e3].Perm [f0, f1, f2, f3] := by
  rw [← sortedElements_eq_iff_perm, encodeValue_eq_digitSum_sortedElements,
    encodeValue_eq_digitSum_sortedElements]
  exact ⟨eq_of_digitSum_eq (sortedElements_descending ..) (sortedElements_v0_le ..)
    (sortedElements_descending ..) (sortedElements_v0_le ..), congrArg digitSum⟩

/-- The digits DECODE finds are elements of that code. -/
theorem encodeValue_decodeDigits {code : Nat} (hcode : code < 52360) :
    encodeValue (.ofNat 5 (decodeDigits code).v0) (.ofNat 5 (decodeDigits code).v1)
      (.ofNat 5 (decodeDigits code).v2) (.ofNat 5 (decodeDigits code).v3) = code := by
  have hlargest := decodeDigits_largest code
  obtain ⟨h31, hdesc⟩ := hlargest.descending hcode
  rw [encodeValue_eq_digitSum hdesc (toList_perm_elements hdesc h31), hlargest.digitSum_eq]

end bijection

/-- Settles O18: the sorted elements are the largest digits that fit in their code, so a code has one
multiset; DECODE's digits give every code; and `cc 32 4` counts the multisets. -/
theorem encodeIsBijectionOntoCodes : Obligations.EncodeIsBijectionOntoCodes := by
  refine ⟨fun e0 e1 e2 e3 => Nat.lt_succ_of_le (encodeValue_le e0 e1 e2 e3),
    fun _ _ _ _ _ _ _ _ => encodeValue_eq_iff_perm,
    fun _ hcode => ⟨_, _, _, _, encodeValue_decodeDigits hcode⟩, ?_⟩
  have hcount := (choiceCountCountsMultisets 32 4 le_rfl (by decide) le_rfl).2
  exact hcount.symm.trans nCodes_eq_cc.symm

/-- Settles O16: the bound is the digit sum's, and each end is the model run on four equal elements. -/
theorem encodeCodesLieInRange : Obligations.EncodeCodesLieInRange :=
  ⟨encodeValue_le, by decide +kernel, by decide +kernel⟩

/-- Settles O17: permuted elements have one descending order, and the response depends on nothing
else. -/
theorem encodeIsPermutationInvariant : Obligations.EncodeIsPermutationInvariant := by
  intro e0 e1 e2 e3 f0 f1 f2 f3 s hperm
  have hcode : encodeValue e0 e1 e2 e3 = encodeValue f0 f1 f2 f3 :=
    congrArg digitSum (sortedElements_eq_iff_perm.mpr hperm)
  rw [exec_encode, exec_encode, encodeResponse, encodeResponse, hcode]

end Sys2Proof.Machine
end

section
/-! PROOFS. DECODE (42_decode.md): its search, its range check, the digits beyond that check, and the
round trips with ENCODE. -/

namespace Sys2Proof.Machine

/-- Settles O22: after the last probe every value that fits is less than 1 above `lo`. -/
theorem searchReturnsLargestCandidate : Obligations.SearchReturnsLargestCandidate := by
  intro rem r h2 h4
  have h1 : 1 ≤ r := Nat.one_le_of_lt h2
  exact ⟨search_isGreatest h1 h4, search_floor h1 h4, (searchInv_search h1 h4).floor_le⟩

/-! ### The range check (R101) -/

/-- DECODE of 52360 or more is answered with ERR_RANGE, a draw of `ANY32` and nothing else. -/
theorem exec_decode_of_ge {code : Code} (h : 52360 ≤ code.toNat) (s : State) :
    exec (.decode code) s = .next { s with offer := some ⟨s.any32, .errRange⟩ } := by
  rw [exec_decode, decodeResponse_of_outOfRange (decide_eq_true h)]

/-- DECODE of less than 52360 is answered with the digits and nothing else. -/
theorem exec_decode_of_lt {code : Code} (h : code.toNat < 52360) (s : State) :
    exec (.decode code) s =
      .next { s with offer := some ⟨digitData (decodeDigits code.toNat), .ok⟩ } := by
  rw [exec_decode, decodeResponse_of_lt h]

/-- The codes that fail the range check. -/
def outOfRangeCodes : Set Code := { code | 52360 ≤ code.toNat }

theorem toNat_image_outOfRangeCodes : BitVec.toNat '' outOfRangeCodes = Set.Ico 52360 65536 := by
  ext n
  constructor
  · rintro ⟨code, hcode, rfl⟩
    exact ⟨hcode, code.isLt⟩
  · rintro ⟨hge, hlt⟩
    have hn : (BitVec.ofNat 16 n).toNat = n := (BitVec.toNat_ofNat n 16).trans (Nat.mod_eq_of_lt hlt)
    exact ⟨BitVec.ofNat 16 n, hge.trans_eq hn.symm, hn⟩

theorem outOfRangeCodes_ncard : outOfRangeCodes.ncard = 13176 := by
  rw [← Set.ncard_image_of_injective _ fun _ _ => BitVec.eq_of_toNat_eq,
    toNat_image_outOfRangeCodes, Set.ncard_eq_toFinset_card', Set.toFinset_Ico, Nat.card_Ico]

/-- Settles O20: the codes that fail the check are the numbers from 52360 to 65535. -/
theorem decodeOutOfRangeIsErrRange : Obligations.DecodeOutOfRangeIsErrRange :=
  ⟨fun _ s h => ⟨s.any32, exec_decode_of_ge h s⟩,
    (Nat.card_coe_set_eq outOfRangeCodes).trans outOfRangeCodes_ncard⟩

/-! ### The digits beyond the range check (R111) -/

/-- A stage finds 31, the last value there is, as soon as 31 fits. -/
theorem eq_31_of_isGreatest_fitting {rem r d : Nat} (hd : IsGreatest (fitting rem r) d)
    (hfits : cc 31 r ≤ rem) : d = 31 := by
  obtain ⟨⟨hd32, -⟩, hmax⟩ := hd
  have hge : 31 ≤ d := hmax ⟨by decide, hfits⟩
  omega

/-- All three searches are at their end, and what is left over goes into the last digit. -/
theorem decodeDigits_of_ge {code : Nat} (h : 52360 ≤ code) :
    decodeDigits code = ⟨31, 31, 31, code - 52328⟩ := by
  have hcc4 : cc 31 4 = 46376 := by decide +kernel
  have hcc3 : cc 31 3 = 5456 := by decide +kernel
  have hcc2 : cc 31 2 = 496 := by decide +kernel
  obtain ⟨h0, h1, h2, h3⟩ := decodeDigits_largest code
  have hv0 := eq_31_of_isGreatest_fitting h0 (by omega)
  rw [hv0] at h1 h2 h3
  have hv1 := eq_31_of_isGreatest_fitting h1 (by omega)
  rw [hv1] at h2 h3
  have hv2 := eq_31_of_isGreatest_fitting h2 (by omega)
  rw [hv2] at h3
  have hv3 : (decodeDigits code).v3 = code - 52328 := by omega
  exact Quad.toList_injective (by simp only [Quad.toList, hv0, hv1, hv2, hv3])

/-- Settles O24: the last digit is `code - 52328`. -/
theorem outOfRangeDigitsWouldNotFit : Obligations.OutOfRangeDigitsWouldNotFit := by
  refine ⟨fun code h => ?_, decodeDigits_of_ge le_rfl, decodeOutOfRangeIsErrRange.1⟩
  rw [decodeDigits_of_ge h]
  dsimp only
  omega

/-! ### The round trips (R107) -/

section roundTrip
variable {q : Quad}

/-- The digits of the digit sum of a descending quadruple are that quadruple. -/
theorem decodeDigits_digitSum (hq : q.Descending) (h31 : q.v0 ≤ 31) :
    decodeDigits (digitSum q) = q :=
  (decodeDigits_largest _).unique (largestDigits_digitSum hq h31)

/-- The code that ENCODE answers, read as the code field of a DECODE request (R53, R57). -/
theorem setWidth_codeData_toNat {code : Nat} (h : code < 65536) :
    ((codeData code).setWidth 16).toNat = code := by
  rw [BitVec.toNat_setWidth, codeData_toNat h, Nat.mod_eq_of_lt h]

/-- The digits of DECODE's data word stand in the element fields of ENCODE's request word
(R58, R60). -/
theorem fields_digitData (hq : q.Descending) (h31 : q.v0 ≤ 31) :
    e0Field (digitData q) = .ofNat 5 q.v0 ∧ e1Field (digitData q) = .ofNat 5 q.v1 ∧
      e2Field (digitData q) = .ofNat 5 q.v2 ∧ e3Field (digitData q) = .ofNat 5 q.v3 := by
  have hval := digitData_toNat_of_descending hq h31
  obtain ⟨h01, h12, h23⟩ := hq
  simp only [← BitVec.toNat_inj, BitVec.toNat_ofNat, e0Field_toNat, e1Field_toNat, e2Field_toNat,
    e3Field_toNat, hval]
  omega

/-- DECODE of the code of a descending quadruple answers with that quadruple. -/
theorem exec_decode_codeData_digitSum (hq : q.Descending) (h31 : q.v0 ≤ 31) (s : State) :
    exec (.decode ((codeData (digitSum q)).setWidth 16)) s =
      .next { s with offer := some ⟨digitData q, .ok⟩ } := by
  have hle := digitSum_le hq h31
  have hcode := setWidth_codeData_toNat (code := digitSum q) (by omega)
  rw [exec_decode_of_lt (by omega), hcode, decodeDigits_digitSum hq h31]

/-- ENCODE of the fields of the data word of a valid code answers with that code. -/
theorem exec_encode_fields_digitData {code : Nat} (hcode : code < 52360) (s : State) :
    exec (.encode (e0Field (digitData (decodeDigits code))) (e1Field (digitData (decodeDigits code)))
      (e2Field (digitData (decodeDigits code))) (e3Field (digitData (decodeDigits code)))) s =
      .next { s with offer := some ⟨codeData code, .ok⟩ } := by
  obtain ⟨h31, hdesc⟩ := (decodeDigits_largest code).descending hcode
  obtain ⟨he0, he1, he2, he3⟩ := fields_digitData hdesc h31
  rw [exec_encode, encodeResponse, he0, he1, he2, he3, encodeValue_decodeDigits hcode]

end roundTrip

/-- Settles O26: the sorted elements are the only largest digits of their digit sum, and the largest
digits of a code have that code as their digit sum. -/
theorem encodeAndDecodeAreInverse : Obligations.EncodeAndDecodeAreInverse := by
  constructor
  · intro e0 e1 e2 e3 v0 v1 v2 v3 s t hperm h01 h12 h23
    have hq : Quad.Descending ⟨v0, v1, v2, v3⟩ := ⟨h01, h12, h23⟩
    have h31 : v0 ≤ 31 := v0_le_of_perm (q := ⟨v0, v1, v2, v3⟩) hperm
    refine ⟨codeData (digitSum ⟨v0, v1, v2, v3⟩), digitData ⟨v0, v1, v2, v3⟩, ?_, ?_,
      exec_decode_codeData_digitSum hq h31 t, digitData_toNat_of_descending hq h31⟩
    · rw [exec_encode, encodeResponse_eq hq hperm]
    · rw [codeData_digitSum_toNat hq h31]
      exact (digitSum_le hq h31).trans_lt (by decide)
  · intro code s t hcode
    exact ⟨digitData (decodeDigits code.toNat), codeData code.toNat, exec_decode_of_lt hcode s,
      exec_encode_fields_digitData hcode t, codeData_toNat code.isLt⟩

end Sys2Proof.Machine
end

section
/-! PROOFS. Exceptions (60_exceptions.md): the values of `rsp_status` that are produced, and which of
the two errors a request gets that meets the conditions of both. -/

namespace Sys2Proof

/-- A 1 in a reserved bit makes a word with DECODE's `OP` illegal, whatever its code (R54). -/
theorem decodeWord_of_decodeReserved {req : Word} (hop : opField req = 0b10#2)
    (hres : decodeReserved req ≠ 0#14) : decodeWord req = none := by
  simp [decodeWord, hop, hres]

end Sys2Proof

namespace Sys2Proof.Machine

/-! ### The values of `rsp_status` (R56, R124) -/

@[simp] theorem Status.ofBits_bits (st : Status) : Status.ofBits st.bits = some st := by
  cases st <;> rfl

theorem Status.ofBits_eleven : Status.ofBits 0b11#2 = none := rfl

/-- No status is carried as `0b11`, because that value names none (R124). -/
theorem Status.bits_ne_eleven (st : Status) : st.bits ≠ 0b11#2 := by
  intro h
  have hnone : Status.ofBits st.bits = none := h ▸ Status.ofBits_eleven
  rw [Status.ofBits_bits] at hnone
  cases hnone

/-- Settles O28: while `rsp_valid` is 1 the port carries the bits of the offered response's status. -/
theorem statusElevenIsNeverProduced : Obligations.StatusElevenIsNeverProduced := by
  refine ⟨rfl, rfl, rfl, Status.ofBits_bits, Status.ofBits_eleven, fun s hvalid => ?_⟩
  obtain ⟨r, hr⟩ := rspValid_iff.mp hvalid
  rw [rspStatus_of_offer hr]
  exact r.status.bits_ne_eleven

/-! ### ERR_ILLEGAL before ERR_RANGE (R125) -/

/-- Settles O29: a reserved bit makes the word illegal before its code is read, so the range check
is never reached. -/
theorem illegalComesBeforeRange : Obligations.IllegalComesBeforeRange :=
  ⟨fun _ s hop hres _ =>
      ⟨s.any32, runRequest_of_illegal (decodeWord_of_decodeReserved hop hres) s⟩,
    fun s =>
      ⟨s.any32, runRequest_of_illegal (decodeWord_of_decodeReserved (by decide) (by decide)) s⟩⟩

end Sys2Proof.Machine
end

section
/-! PROOFS. Reset and hazards (70_reset_and_hazards.md): what the output ports read, how long a response
stays on offer, and what a reset edge leaves. -/

namespace Sys2Proof.Machine

/-! ### What the output ports read (R153) -/

/-- `rsp_valid` is a function of the response on offer. -/
theorem rspValid_congr {s t : State} (hoffer : s.offer = t.offer) : s.rspValid = t.rspValid := by
  rw [State.rspValid, State.rspValid, hoffer]

/-- `rsp_data` is a function of the response on offer, the past edges and the queue. -/
theorem rspData_congr {s t : State} (hoffer : s.offer = t.offer) (hseen : s.seen = t.seen) :
    s.rspData = t.rspData := by
  rw [State.rspData, State.rspData, hoffer, hseen]

/-- `rsp_status` is a function of the response on offer, the past edges and the queue. -/
theorem rspStatus_congr {s t : State} (hoffer : s.offer = t.offer) (hseen : s.seen = t.seen) :
    s.rspStatus = t.rspStatus := by
  rw [State.rspStatus, State.rspStatus, hoffer, hseen]

/-- Settles O39: of what the host drives, `req_ready` reads `rst` alone and the response ports read
nothing. -/
theorem handshakesDoNotWaitOnEachOther : Obligations.HandshakesDoNotWaitOnEachOther := by
  intro s d ds valid ready data hhost
  exact ⟨reqReady_congr (by simp [State.drive, hhost]) rfl, rspValid_congr rfl,
    rspData_congr rfl rfl, rspStatus_congr rfl rfl⟩

/-! ### A response on offer stays (R148) -/

/-- The handshakes keep a response that is not transferred on offer. -/
theorem handshake_offer_of_no_transfer {s : State} (h : s.transfers ≠ true) :
    s.handshake.offer = s.offer := by
  rw [(handshake_spec s).offer, if_neg h]

/-- No request is answered while a response stays on offer, so the edge is its handshakes alone. -/
theorem step_of_offer_kept {s : State} {r : Response} (hrst : s.drive.rst = false)
    (hr : s.handshake.offer = some r) : step s = .next s.handshake := by
  rw [step_running hrst, answer_offered hr]

/-- Settles O40: without `rsp_ready` nothing is transferred, and the offer outlasts both the handshakes
and the answer. -/
theorem offerStaysUntilTakenOrReset : Obligations.OfferStaysUntilTakenOrReset := by
  intro s hvalid hrst hready
  obtain ⟨r, hr⟩ := rspValid_iff.mp hvalid
  have hkept : s.handshake.offer = some r :=
    (handshake_offer_of_no_transfer (by simp [transfers_iff, hready])).trans hr
  refine ⟨s.handshake, step_of_offer_kept hrst hkept, rspValid_iff.mpr ⟨r, hkept⟩, ?_, ?_⟩
  · rw [rspData_of_offer hkept, rspData_of_offer hr]
  · rw [rspStatus_of_offer hkept, rspStatus_of_offer hr]

/-! ### A reset edge drops everything (R141, R143) -/

/-- With nothing in flight the block is ready, as CAPACITY is at least 1 (R10, R31). -/
theorem reqReady_of_empty {s : State} (hrst : s.drive.rst = false) (hq : s.queue = []) :
    s.reqReady = true := by
  rw [reqReady_of_running hrst, hq]
  exact decide_eq_true capacity_pos

theorem rspValid_of_no_offer {s : State} (h : s.offer = none) : s.rspValid = false := by
  simp [State.rspValid, h]

/-- Settles O41: the edge is `resetEdge` alone, which leaves nothing in flight and nothing on offer. -/
theorem resetEdgeDropsEverything : Obligations.ResetEdgeDropsEverything := by
  intro s hrst
  have hqueue := resetEdge_queue s
  exact ⟨s.resetEdge, step_reset hrst, hqueue, rspValid_of_no_offer (resetEdge_offer s),
    resetEdge_trace s, fun hnext => reqReady_of_empty hnext hqueue⟩

end Sys2Proof.Machine
end

section
/-! PROOFS. Request words (30_encoding.md): the codec, the words of source lines, elements that do not
fit their fields, and the status each word gets. -/

namespace Sys2Proof

/-- Settles O2: the word of an operation has its format's fixed bits, and its fields are the operands. -/
theorem decodeOfEncodeIsIdentity : Obligations.DecodeOfEncodeIsIdentity :=
  fun i _ => decodeWord_encodeWord i

/-- Settles O3: the fixed bits of a format and its fields are all 32 bits of a word. -/
theorem encodeOfDecodeIsIdentity : Obligations.EncodeOfDecodeIsIdentity :=
  fun _ _ => encodeWord_of_decodeWord

/-- Settles O1: the decoder run on the seven words. -/
theorem writtenWordsDecodeToTheirOperations : Obligations.WrittenWordsDecodeToTheirOperations := by
  unfold Obligations.WrittenWordsDecodeToTheirOperations
  decide

/-! ### Words as five fields (R52) -/

/-- The 12 bits above the elements of an ENCODE word, and the four element fields. -/
def packFields (top : BitVec 12) (f3 f2 f1 f0 : Element) : Word := top ++ f3 ++ f2 ++ f1 ++ f0

theorem append_or_append {m n : Nat} (x y : BitVec m) (a b c d a' b' c' d' : BitVec n) :
    (x ++ a ++ b ++ c ++ d) ||| (y ++ a' ++ b' ++ c' ++ d') =
      (x ||| y) ++ (a ||| a') ++ (b ||| b') ++ (c ||| c') ++ (d ||| d') := by
  simp only [BitVec.or_append]

theorem packFields_or (x y : BitVec 12) (a b c d a' b' c' d' : Element) :
    packFields x a b c d ||| packFields y a' b' c' d' =
      packFields (x ||| y) (a ||| a') (b ||| b') (c ||| c') (d ||| d') :=
  append_or_append ..

theorem encodeWord_encode_eq_packFields (e0 e1 e2 e3 : Element) :
    encodeWord (.encode e0 e1 e2 e3) = packFields 0x400#12 e3 e2 e1 e0 := rfl

theorem ofNat_eq_packFields (n : Nat) :
    BitVec.ofNat 32 n = packFields (.ofNat 12 (n / 2 ^ 20)) (.ofNat 5 (n / 2 ^ 15))
      (.ofNat 5 (n / 2 ^ 10)) (.ofNat 5 (n / 2 ^ 5)) (.ofNat 5 n) := by
  apply BitVec.eq_of_toNat_eq
  simp only [packFields, BitVec.toNat_append, BitVec.toNat_ofNat]
  rw [← Nat.shiftLeft_add_eq_or_of_lt (Nat.mod_lt _ (by decide)),
    ← Nat.shiftLeft_add_eq_or_of_lt (Nat.mod_lt _ (by decide)),
    ← Nat.shiftLeft_add_eq_or_of_lt (Nat.mod_lt _ (by decide)),
    ← Nat.shiftLeft_add_eq_or_of_lt (Nat.mod_lt _ (by decide))]
  simp only [Nat.shiftLeft_eq]
  omega

theorem ofNat_five_of_dvd {n : Nat} (h : 32 ∣ n) : BitVec.ofNat 5 n = 0#5 := by
  apply BitVec.eq_of_toNat_eq
  simp only [BitVec.toNat_ofNat]
  omega

/-! An element below 1024 at the place of a field reaches no further than the next field. -/

section places
variable {e : Nat}

theorem ofNat_at_e0_eq_packFields (h : e < 1024) :
    BitVec.ofNat 32 e = packFields 0#12 0#5 0#5 (.ofNat 5 (e / 32)) (.ofNat 5 e) := by
  rw [ofNat_eq_packFields, show e / 2 ^ 20 = 0 by omega, show e / 2 ^ 15 = 0 by omega,
    show e / 2 ^ 10 = 0 by omega, show e / 2 ^ 5 = e / 32 by omega]

theorem ofNat_at_e1_eq_packFields (h : e < 1024) :
    BitVec.ofNat 32 (e * 2 ^ 5) = packFields 0#12 0#5 (.ofNat 5 (e / 32)) (.ofNat 5 e) 0#5 := by
  rw [ofNat_eq_packFields, show e * 2 ^ 5 / 2 ^ 20 = 0 by omega,
    show e * 2 ^ 5 / 2 ^ 15 = 0 by omega, show e * 2 ^ 5 / 2 ^ 10 = e / 32 by omega,
    show e * 2 ^ 5 / 2 ^ 5 = e by omega, ofNat_five_of_dvd (n := e * 2 ^ 5) (by omega)]

theorem ofNat_at_e2_eq_packFields (h : e < 1024) :
    BitVec.ofNat 32 (e * 2 ^ 10) = packFields 0#12 (.ofNat 5 (e / 32)) (.ofNat 5 e) 0#5 0#5 := by
  rw [ofNat_eq_packFields, show e * 2 ^ 10 / 2 ^ 20 = 0 by omega,
    show e * 2 ^ 10 / 2 ^ 15 = e / 32 by omega, show e * 2 ^ 10 / 2 ^ 10 = e by omega,
    ofNat_five_of_dvd (n := e * 2 ^ 10 / 2 ^ 5) (by omega),
    ofNat_five_of_dvd (n := e * 2 ^ 10) (by omega)]

theorem ofNat_at_e3_eq_packFields (h : e < 32) :
    BitVec.ofNat 32 (e * 2 ^ 15) = packFields 0#12 (.ofNat 5 e) 0#5 0#5 0#5 := by
  rw [ofNat_eq_packFields, show e * 2 ^ 15 / 2 ^ 20 = 0 by omega,
    show e * 2 ^ 15 / 2 ^ 15 = e by omega, ofNat_five_of_dvd (n := e * 2 ^ 15 / 2 ^ 10) (by omega),
    ofNat_five_of_dvd (n := e * 2 ^ 15 / 2 ^ 5) (by omega),
    ofNat_five_of_dvd (n := e * 2 ^ 15) (by omega)]

end places

/-- Elements ORed in at their places: the high bits of one go into the next field. -/
theorem or_elements_eq_encodeWord {e0 e1 e2 e3 : Nat} (h0 : e0 < 1024) (h1 : e1 < 1024)
    (h2 : e2 < 1024) (h3 : e3 < 32) :
    0x40000000#32 ||| BitVec.ofNat 32 (e3 * 2 ^ 15) ||| BitVec.ofNat 32 (e2 * 2 ^ 10)
        ||| BitVec.ofNat 32 (e1 * 2 ^ 5) ||| BitVec.ofNat 32 e0 =
      encodeWord (.encode (.ofNat 5 e0) (.ofNat 5 (e1 ||| e0 / 32)) (.ofNat 5 (e2 ||| e1 / 32))
        (.ofNat 5 (e3 ||| e2 / 32))) := by
  have hop : 0x40000000#32 = packFields 0x400#12 0#5 0#5 0#5 0#5 := by decide
  rw [hop, ofNat_at_e3_eq_packFields h3, ofNat_at_e2_eq_packFields h2, ofNat_at_e1_eq_packFields h1,
    ofNat_at_e0_eq_packFields h0, encodeWord_encode_eq_packFields]
  simp only [packFields_or, BitVec.or_zero, BitVec.zero_or, BitVec.ofNat_or]

/-- A number that fits below the one bit it is ORed with is added to it. -/
theorem twoPow_or_ofNat_toNat {k n : Nat} (hk : k < 32) (hn : n < 2 ^ k) :
    (BitVec.ofNat 32 (2 ^ k) ||| BitVec.ofNat 32 n).toNat = 2 ^ k + n := by
  have hpow : 2 ^ k < 2 ^ 32 := Nat.pow_lt_pow_right (by decide) hk
  rw [BitVec.toNat_or, BitVec.toNat_ofNat, BitVec.toNat_ofNat, Nat.mod_eq_of_lt hpow,
    Nat.mod_eq_of_lt (hn.trans hpow)]
  simpa using (Nat.two_pow_add_eq_or_of_lt hn 1).symm

/-! ### The status of a word is decided by its bits (R54, R55, R101) -/

theorem opField_cases (req : Word) :
    opField req = 0b00#2 ∨ opField req = 0b01#2 ∨ opField req = 0b10#2 ∨ opField req = 0b11#2 := by
  have hall : ∀ op : BitVec 2, op = 0b00#2 ∨ op = 0b01#2 ∨ op = 0b10#2 ∨ op = 0b11#2 := by decide
  exact hall _

/-- A 1 in a reserved bit makes a word with ENCODE's `OP` illegal (R54). -/
theorem decodeWord_of_encodeReserved {req : Word} (hop : opField req = 0b01#2)
    (hres : encodeReserved req ≠ 0#10) : decodeWord req = none := by
  simp [decodeWord, hop, hres]

/-- ENCODE's `OP` with anything but zeros and elements below it is an illegal word. -/
theorem decodeWord_of_wide_elements {req : Word} {n : Nat} (hreq : req.toNat = 2 ^ 30 + n)
    (hlo : 2 ^ 20 ≤ n) (hhi : n < 2 ^ 30) : decodeWord req = none := by
  rw [decodeWord_eq_none_iff, exists_encode_iff_toNat, exists_decode_iff_toNat]
  omega

end Sys2Proof

namespace Sys2Proof.Machine

/-- Settles O7: a set reserved bit fails the second check of either format. -/
theorem reservedBitsAreIllegal : Obligations.ReservedBitsAreIllegal := by
  rintro req s (⟨hop, hres⟩ | ⟨hop, hres⟩)
  · exact ⟨s.any32, runRequest_of_illegal (decodeWord_of_encodeReserved hop hres) s⟩
  · exact ⟨s.any32, runRequest_of_illegal (decodeWord_of_decodeReserved hop hres) s⟩

/-- Settles O8: an element of 32 or more in `E3` reaches bit 20 but not bit 30; in the other places the
word is that of ENCODE with the high bits in the next field. -/
theorem mispackedElementsSpillOver : Obligations.MispackedElementsSpillOver := by
  constructor
  · intro e0 e1 e2 e3 h0 h1 h2 h3 h3' s
    have hhi : e3 * 2 ^ 15 + e2 * 2 ^ 10 + e1 * 2 ^ 5 + e0 < 2 ^ 30 := by omega
    have hval := twoPow_or_ofNat_toNat (k := 30) (by decide) hhi
    exact ⟨s.any32, runRequest_of_illegal (decodeWord_of_wide_elements hval (by omega) hhi) s⟩
  · intro e0 e1 e2 e3 h0 h1 h2 h3
    rw [or_elements_eq_encodeWord h0 h1 h2 h3, decodeWord_encodeWord]

/-- Which status a word gets: its `OP`, then the reserved bits of its format, then its code decide. -/
theorem responseOf_status_iff (req any : Word) :
    ((responseOf req any).status = .errIllegal ↔
      opField req = 0b00#2 ∨ opField req = 0b11#2 ∨
      (opField req = 0b01#2 ∧ encodeReserved req ≠ 0#10) ∨
      (opField req = 0b10#2 ∧ decodeReserved req ≠ 0#14)) ∧
    ((responseOf req any).status = .errRange ↔
      opField req = 0b10#2 ∧ decodeReserved req = 0#14 ∧ 52360 ≤ (codeField req).toNat) ∧
    ((responseOf req any).status = .ok ↔
      (opField req = 0b01#2 ∧ encodeReserved req = 0#10) ∨
      (opField req = 0b10#2 ∧ decodeReserved req = 0#14 ∧ (codeField req).toNat < 52360)) := by
  rcases opField_cases req with hop | hop | hop | hop
  · have hillegal : decodeWord req = none :=
      decodeWord_of_reservedOp (by simp [hop]) (by simp [hop])
    simp [responseOf_of_illegal hillegal, hop]
  · by_cases hres : encodeReserved req = 0#10
    · simp [responseOf_of_encode (decodeWord_of_encodeFormat hop hres), encodeResponse, hop, hres]
    · simp [responseOf_of_illegal (decodeWord_of_encodeReserved hop hres), hop, hres]
  · by_cases hres : decodeReserved req = 0#14
    · rw [responseOf_of_decode (decodeWord_of_decodeFormat hop hres)]
      rcases Nat.lt_or_ge (codeField req).toNat 52360 with hcode | hcode
      · simp [decodeResponse_of_lt hcode, hop, hres, hcode]
      · simp [decodeResponse_of_outOfRange (decide_eq_true hcode), hop, hres, hcode]
    · simp [responseOf_of_illegal (decodeWord_of_decodeReserved hop hres), hop, hres]
  · have hillegal : decodeWord req = none :=
      decodeWord_of_reservedOp (by simp [hop]) (by simp [hop])
    simp [responseOf_of_illegal hillegal, hop]

/-- Settles O30: the word's response is `responseOf` the word, and its status is read from the fields. -/
theorem everyWordGetsItsStatus : Obligations.EveryWordGetsItsStatus := fun req s =>
  ⟨responseOf req s.any32, runRequest_eq_respond req s, responseOf_status_iff req s.any32⟩

/-! ### The assembler (R65, R66) -/

section assemble
variable {e0 e1 e2 e3 code w : Nat}

theorem assemble_of_refused {l : SourceLine} (h : l.wf = false) : assemble l = none := by
  simp [assemble, h]

theorem wf_encode_iff :
    (SourceLine.encode e0 e1 e2 e3).wf = true ↔ e0 ≤ 31 ∧ e1 ≤ 31 ∧ e2 ≤ 31 ∧ e3 ≤ 31 := by
  simp [SourceLine.wf, and_assoc]

theorem ofNat_shiftLeft (n k : Nat) : BitVec.ofNat 32 n <<< k = BitVec.ofNat 32 (n * 2 ^ k) := by
  apply BitVec.eq_of_toNat_eq
  simp [Nat.shiftLeft_eq]

theorem assemble_encode (h0 : e0 ≤ 31) (h1 : e1 ≤ 31) (h2 : e2 ≤ 31) (h3 : e3 ≤ 31) :
    assemble (.encode e0 e1 e2 e3) =
      some (encodeWord (.encode (.ofNat 5 e0) (.ofNat 5 e1) (.ofNat 5 e2) (.ofNat 5 e3))) := by
  have hword := or_elements_eq_encodeWord (e0 := e0) (e1 := e1) (e2 := e2) (e3 := e3)
    (by omega) (by omega) (by omega) (by omega)
  rw [Nat.div_eq_of_lt (Nat.lt_succ_of_le h0), Nat.div_eq_of_lt (Nat.lt_succ_of_le h1),
    Nat.div_eq_of_lt (Nat.lt_succ_of_le h2), Nat.or_zero, Nat.or_zero, Nat.or_zero] at hword
  simp only [assemble, wf_encode_iff.mpr ⟨h0, h1, h2, h3⟩, if_true, ofNat_shiftLeft, hword]

theorem assemble_decode (h : code ≤ 65535) :
    assemble (.decode code) = some (encodeWord (.decode (.ofNat 16 code))) := by
  have hword : 0x80000000#32 ||| BitVec.ofNat 32 code = encodeWord (.decode (.ofNat 16 code)) := by
    apply BitVec.eq_of_toNat_eq
    rw [encodeWord_decode_toNat, BitVec.toNat_ofNat, Nat.mod_eq_of_lt (by omega)]
    exact twoPow_or_ofNat_toNat (k := 31) (by decide) (by omega)
  simp [assemble, SourceLine.wf, h, hword]

theorem assemble_word (h : w < 2 ^ 32) : assemble (.word w) = some (BitVec.ofNat 32 w) := by
  simp only [assemble, SourceLine.wf, decide_eq_true h, if_true]

end assemble

/-- Settles O58: the operands of an operation pass the assembler's checks, and the words are the same. -/
theorem assemblerAgreesWithEncoder : Obligations.AssemblerAgreesWithEncoder := by
  intro i
  cases i with
  | encode e0 e1 e2 e3 =>
    have hle (e : Element) : e.toNat ≤ 31 := Nat.le_of_lt_succ e.isLt
    simp only [Instr.source, assemble_encode (hle e0) (hle e1) (hle e2) (hle e3),
      BitVec.ofNat_toNat, BitVec.setWidth_eq]
  | decode code =>
    simp only [Instr.source, assemble_decode (Nat.le_of_lt_succ code.isLt), BitVec.ofNat_toNat,
      BitVec.setWidth_eq]

/-- Settles O57: accepted operands are those of an operation, whose word is known as a number. -/
theorem assemblerFollowsFormats : Obligations.AssemblerFollowsFormats := by
  refine ⟨fun e0 e1 e2 e3 h0 h1 h2 h3 => ⟨_, assemble_encode h0 h1 h2 h3, ?_⟩,
    fun e0 e1 e2 e3 h => assemble_of_refused ?_, fun code h => ⟨_, assemble_decode h, ?_⟩,
    fun code h => assemble_of_refused ?_, fun w h => ⟨_, assemble_word h, ?_⟩,
    fun w h => assemble_of_refused ?_⟩
  · simp only [encodeWord_encode_toNat, BitVec.toNat_ofNat]
    omega
  · rw [← Bool.not_eq_true, wf_encode_iff]
    omega
  · rw [encodeWord_decode_toNat, BitVec.toNat_ofNat]
    omega
  · exact decide_eq_false (by omega)
  · rw [BitVec.toNat_ofNat, Nat.mod_eq_of_lt h]
  · exact decide_eq_false (by omega)

/-- Settles O59: the assembler run on the text. -/
theorem assemblerReadsTheExampleLines : Obligations.AssemblerReadsTheExampleLines := by
  unfold Obligations.AssemblerReadsTheExampleLines
  decide +kernel

end Sys2Proof.Machine
end

section
/-! PROOFS. The numbers inside the block (40_choice_count.md, 41_encode.md, 42_decode.md): what the
search probes, how wide the products are, and the corner cases of both operations. -/

namespace Sys2Proof.Machine

/-! ### What the search probes (R84, R103) -/

/-- Half of the remaining width is still ahead of the candidate, and the whole of it ends at 32. -/
theorem probe_candidate_bounds {rem r k : Nat} (h : k < searchSteps.length) (h2 : 2 ≤ r) (h4 : r ≤ 4) :
    1 ≤ (searchAfter rem r (searchSteps.take k)).lo + searchSteps[k] ∧
      (searchAfter rem r (searchSteps.take k)).lo + searchSteps[k] ≤ 31 := by
  have hk : k < 5 := h
  have htop := (searchInv_searchAfter (rem := rem) (by omega : 1 ≤ r) h4 hk.le).le_top
  have hhalf : 2 ^ (5 - k) = 2 * 2 ^ (4 - k) := by
    rw [show 5 - k = 4 - k + 1 by omega, Nat.pow_succ']
  have hpos : 0 < 2 ^ (4 - k) := by positivity
  rw [searchSteps_getElem k h]
  omega

/-- Settles O23: the invariant of the search keeps `lo` and twice the step within 32. -/
theorem searchProbesStayInDomain : Obligations.SearchProbesStayInDomain :=
  fun _ _ _ h h2 h4 => probe_candidate_bounds h h2 h4

/-! ### Widths (R81, R109) -/

section widths
variable {n r : Nat}

theorem cc_mul_succ_le (hn : n ≤ 32) (h1 : 1 ≤ r) (h4 : r + 1 ≤ 4) :
    cc n r * (n + r) ≤ (r + 1) * 52360 := by
  rw [← succ_mul_cc_succ hn h1 h4]
  obtain ⟨-, hmax, hval, -⟩ := choiceCountGrowsWithinSixteenBits
  exact Nat.mul_le_mul_left _ (hval ▸ hmax n (r + 1) hn (by omega) h4)

end widths

/-- Settles O13: each product is a multiple of the next choice count, which is at most `cc 32 4`, and a
probed choice count is at most that of 31. -/
theorem internalValuesFitTheirWidths : Obligations.InternalValuesFitTheirWidths := by
  refine ⟨fun n hn => ⟨?_, cc_mul_succ_le hn (by decide) (by decide)⟩, by rw [cc_32_3], by decide,
    fun n hn => ?_, by decide, fun rem r k h h2 h4 => ?_, by decide⟩
  · exact (cc_mul_succ_le hn (by decide) (by decide)).trans (by decide)
  · calc n * (n + 1) * (n + 2) * (n + 3) ≤ 32 * (32 + 1) * (32 + 2) * (32 + 3) := by gcongr
      _ = 1256640 := by norm_num
  · have hcc31 : cc 31 4 = 46376 := by decide +kernel
    obtain ⟨-, hle⟩ := probe_candidate_bounds (rem := rem) h h2 h4
    calc cc ((searchAfter rem r (searchSteps.take k)).lo + searchSteps[k]) r
      _ ≤ cc 31 r := cc_le_cc hle (by decide) (by omega) h4
      _ ≤ cc 31 4 := cc_le_cc_right (by decide) (by decide) h4 (by omega) le_rfl
      _ = 46376 := hcc31

/-! ### Corner cases (R99, R110) -/

/-- Settles O19: ENCODE run on the rows of the table. -/
theorem encodeCornerCases : Obligations.EncodeCornerCases := by
  unfold Obligations.EncodeCornerCases
  decide +kernel

/-- Settles O25: the six valid codes have these digits whatever the draw, and the other two fail the
range check. -/
theorem decodeCornerCases : Obligations.DecodeCornerCases := by
  intro any
  have hvalid {code : Code} {data : Word} (hcode : code.toNat < 52360)
      (hdata : digitData (decodeDigits code.toNat) = data) : decodeResponse code any = ⟨data, .ok⟩ := by
    rw [decodeResponse_of_lt hcode, hdata]
  have hrange {code : Code} (hcode : codeOutOfRange (codeValue code) = true) :
      (decodeResponse code any).status = .errRange := by
    rw [decodeResponse_of_outOfRange hcode]
  exact ⟨hvalid (by decide) (by decide +kernel), hvalid (by decide) (by decide +kernel),
    hvalid (by decide) (by decide +kernel), hvalid (by decide) (by decide +kernel),
    hvalid (by decide) (by decide +kernel), hvalid (by decide) (by decide +kernel),
    hrange (by decide), hrange (by decide)⟩

end Sys2Proof.Machine
end

section
/-! PROOFS. Clock edges (10_state.md): what a step runs, which offers leave no mark, and the channel
invariant. -/

namespace Sys2Proof.Machine

/-! ### The channel invariant (R26, R29) -/

section channelInv
variable {s t : State}

theorem channelInv_of_no_offer (hlen : s.queue.length ≤ Config.capacity) (ho : s.offer = none) :
    s.ChannelInv :=
  ⟨hlen, by simp [ho]⟩

theorem transition_length_le {q q' : List Word} {e : Event} (hq : q.length ≤ Config.capacity)
    (h : Transition q e q') : q'.length ≤ Config.capacity := by
  cases e with
  | accept req => obtain ⟨hroom, rfl⟩ := h; simpa using hroom
  | deliver rsp => obtain ⟨req, any, rfl, -⟩ := h; exact (Nat.le_succ _).trans hq
  | reset => obtain rfl : q' = [] := h; exact Nat.zero_le _

theorem transitions_length_le {q q' : List Word} {es : List Event}
    (hq : q.length ≤ Config.capacity) (h : Transitions q es q') : q'.length ≤ Config.capacity := by
  induction es generalizing q with
  | nil => obtain rfl : q' = q := h; exact hq
  | cons e es ih =>
    obtain ⟨mid, he, hrest⟩ := h
    exact ih (transition_length_le hq he) hrest

/-- The handshakes keep the head of the queue with its response, or take both away. -/
theorem handshake_offer_of_head (hinv : s.ChannelInv) {rsp : Response}
    (hrsp : s.handshake.offer = some rsp) :
    ∃ req rest any, s.handshake.queue = req :: rest ∧ rsp = responseOf req any := by
  obtain ⟨-, hoffer⟩ := hinv
  rw [(handshake_spec s).offer] at hrsp
  rw [(handshake_spec s).queue]
  by_cases htr : s.transfers = true
  · rw [if_pos htr] at hrsp
    cases hrsp
  · rw [if_neg htr] at hrsp ⊢
    obtain ⟨req, rest, any, hq, hreq⟩ := hoffer rsp hrsp
    exact ⟨req, _, any, by rw [hq, List.cons_append], hreq⟩

end channelInv

/-- Settles O46: the transitions a step takes bound the queue, and what the answer puts on offer is
`Exec` of the head. -/
theorem stepKeepsChannelInvariant : Obligations.StepKeepsChannelInvariant := by
  intro s t hinv h
  have hlen := transitions_length_le hinv.1 (step_transitions hinv h)
  obtain ⟨-, rfl⟩ | ⟨-, -, ha⟩ := step_cases h
  · exact channelInv_of_no_offer hlen rfl
  · refine ⟨hlen, fun rsp hrsp => ?_⟩
    obtain ⟨heq, -⟩ | ⟨req, rest, -, hq, -, heq⟩ | ⟨req, rest, n, ho, -, -, heq⟩ :=
      answer_cases s.handshake <;> rw [heq] at ha <;> cases ha
    · exact handshake_offer_of_head hinv hrsp
    · cases hrsp
      exact ⟨req, rest, _, hq, rfl⟩
    · rw [ho] at hrsp
      cases hrsp

/-- Settles O47: the step shows `State.shown`, and takes the transitions it shows. -/
theorem stepRefinesTransitionSystem : Obligations.StepRefinesTransitionSystem :=
  fun s _ hinv h => ⟨s.shown, step_trace h, step_transitions hinv h⟩

/-- Settles O45: after reset nothing is in flight and nothing on offer. -/
theorem resetMeetsChannelInvariant : Obligations.ResetMeetsChannelInvariant :=
  channelInv_of_no_offer (Nat.zero_le _) reset_offer

/-- Settles O50: after reset nothing has been shown. -/
theorem resetIsInOrder : Obligations.ResetIsInOrder :=
  inOrder_iff_orderKept.mpr ⟨[], rfl, .nil⟩

/-! ### Every transition is taken (R33) -/

/-- A block with a given queue and offer, of which only the coming cycle is known. -/
def State.atEdge (queue : List Word) (offer : Option Response) (d : Drive) : State :=
  { State.reset with queue := queue, offer := offer, host := [d] }

/-- Settles O48: each transition is the one event of an edge at which the host asks for it alone. -/
theorem everyTransitionIsTaken : Obligations.EveryTransitionIsTaken := by
  intro q e q' hq he
  cases e with
  | accept req =>
    obtain ⟨hroom, rfl⟩ := he
    have hacc : (State.atEdge q none ⟨false, true, req, false⟩).accepts = true :=
      accepts_iff.mpr ⟨rfl, rfl, hroom⟩
    obtain ⟨t, ht⟩ := step_exists (.atEdge q none ⟨false, true, req, false⟩)
    refine ⟨_, t, channelInv_of_no_offer hq rfl, rfl, ht, ?_, ?_⟩
    · rw [step_queue rfl ht, State.entering, if_pos hacc]
      rfl
    · rw [step_trace ht, State.shown, State.entering, if_pos hacc]
      rfl
  | deliver rsp =>
    obtain ⟨req, any, rfl, hrsp⟩ := he
    obtain ⟨t, ht⟩ := step_exists (.atEdge (req :: q') (some rsp) ⟨false, false, 0#32, true⟩)
    refine ⟨_, t, ⟨hq, fun r hr => ⟨req, q', any, rfl, ?_⟩⟩, rfl, ht, ?_, ?_⟩
    · cases hr
      exact hrsp
    · rw [step_queue rfl ht]
      exact List.append_nil _
    · rw [step_trace ht]
      rfl
  | reset =>
    obtain rfl : q' = [] := he
    exact ⟨.atEdge q none ⟨true, false, 0#32, false⟩, _, channelInv_of_no_offer hq rfl, rfl,
      step_reset rfl, rfl, rfl⟩

/-! ### What a step runs (R29, R30, R61) -/

/-- Settles O33: every edge leads to a next state. -/
theorem everyStepIsSafe : Obligations.EveryStepIsSafe := step_exists

/-- Settles O31: either operation is one `respond`. -/
theorem operationsWriteOnlyTheirResponse : Obligations.OperationsWriteOnlyTheirResponse := by
  intro i s t h
  rw [exec_eq_respond] at h
  cases h
  exact ⟨rfl, rfl, rfl, rfl, rfl, rfl⟩

theorem runRequest_of_legal {req : Word} {i : Instr} (h : decodeWord req = some i) (s : State) :
    runRequest req s = exec i s := by
  simp [runRequest, h]

/-- Settles O34: the answer of a due request is `runRequest`, whose two cases these are. -/
theorem stepRunsTheDecodedRequest : Obligations.StepRunsTheDecodedRequest := by
  intro s req rest hrst ho hq hw
  have hstep : step s = runRequest req s.handshake := by
    rw [step_running hrst, answer_due ho hq hw]
  exact ⟨fun i _ hi => by rw [hstep, runRequest_of_legal hi],
    fun hnone => hstep.trans (runRequest_of_illegal hnone _)⟩

/-- Settles O35: the other three cases of the answer. -/
theorem stepOtherwiseOnlyHandshakes : Obligations.StepOtherwiseOnlyHandshakes := by
  intro s hrst
  rw [step_running hrst]
  refine ⟨?_, fun req rest n ho hq hw => answer_waiting ho hq hw⟩
  rintro (⟨rsp, ho⟩ | hq)
  · exact answer_offered ho
  · exact answer_idle hq

/-- With no response on offer nothing is transferred, whatever the host drives. -/
theorem no_transfer_of_no_offer {s : State} (ho : s.offer = none) : s.transfers ≠ true := by
  simp [transfers_iff, ho]

/-- Without a transfer the handshakes keep the queue in front of what is accepted, and the delay that
is left. -/
theorem handshake_of_no_transfer {s : State} (h : s.transfers ≠ true) :
    s.handshake.queue = s.queue ++ s.entering ∧ s.handshake.wait = s.wait := by
  rw [(handshake_spec s).queue, (handshake_spec s).wait, if_neg h, if_neg h]
  exact ⟨rfl, rfl⟩

/-- A request at the head with no response on offer and no delay left runs at the coming edge. -/
theorem step_of_due {s : State} {req : Word} {rest : List Word} (hrst : s.drive.rst = false)
    (ho : s.offer = none) (hq : s.queue = req :: rest) (hw : s.wait = some 0) :
    step s = runRequest req s.handshake := by
  have htr := no_transfer_of_no_offer ho
  obtain ⟨hqueue, hwait⟩ := handshake_of_no_transfer htr
  rw [hq, List.cons_append] at hqueue
  rw [step_running hrst]
  exact answer_due ((handshake_offer_of_no_transfer htr).trans ho) hqueue
    (delay_of_some (hwait.trans hw))

/-- Settles O36: the placed word is at the head, without an offer and without a delay. -/
theorem placedWordRunsNext : Obligations.PlacedWordRunsNext := by
  intro s w hw
  rw [State.withFetchWord, Nat.mod_eq_of_lt hw]
  exact step_of_due (withHeadRequest_rst ..) (withHeadRequest_offer ..) (withHeadRequest_queue ..)
    (withHeadRequest_wait ..)

/-- Settles O42: with nothing in flight there is room. -/
theorem resetStateIsReady : Obligations.ResetStateIsReady :=
  ⟨rfl, rfl, fun _ hrst => reqReady_of_empty hrst rfl⟩

/-! ### What leaves no mark (R30, R33, R43) -/

/-- A step that accepts nothing is a function of `rst`, of whether a response is transferred, and of
the state in the next cycle. -/
theorem step_congr_of_no_accept {s t : State} (hrst : s.drive.rst = t.drive.rst)
    (htr : s.transfers = t.transfers) (hnext : s.nextCycle = t.nextCycle)
    (hs : s.accepts = false) (ht : t.accepts = false) : step s = step t := by
  have hhand : s.handshake = t.handshake := by
    simp [State.handshake, hs, ht, htr, hnext]
  simp only [step, State.resetEdge, hrst, hnext, hhand]

/-- Settles O43: an offer shows in `accepts` and in the edge's accepted word alone, and neither changes
if it is not accepted. -/
theorem unacceptedOfferHasNoEffect : Obligations.UnacceptedOfferHasNoEffect := by
  intro s d ds data hhost hacc
  generalize hu : ({ s with host := { d with reqValid := false, reqData := data } :: ds } : State) = u
  have hrst : u.drive.rst = s.drive.rst := by simp [← hu, State.drive, hhost]
  have hready : u.drive.rspReady = s.drive.rspReady := by simp [← hu, State.drive, hhost]
  have hvalid : u.rspValid = s.rspValid := by rw [← hu]; rfl
  have huacc : u.accepts = false := by simp [← hu, State.accepts, State.drive]
  have htr : u.transfers = s.transfers := by simp only [State.transfers, hrst, hready, hvalid]
  have hedge : u.edge = s.edge := by simp [State.edge, hrst, htr, hacc, huacc]
  refine step_congr_of_no_accept hrst htr ?_ huacc hacc
  rw [State.nextCycle, State.nextCycle, hedge, ← hu, hhost]
  rfl

/-- Settles O44: a response on offer would have the head of the queue as its request. -/
theorem nothingLeavesAnEmptyQueue : Obligations.NothingLeavesAnEmptyQueue := by
  rintro s ⟨-, hoffer⟩ hq
  have ho : s.offer = none := by
    by_contra hne
    obtain ⟨rsp, hrsp⟩ := Option.ne_none_iff_exists'.mp hne
    obtain ⟨req, rest, any, hcons, -⟩ := hoffer rsp hrsp
    simp [hq] at hcons
  obtain ⟨t, ht⟩ := step_exists s
  refine ⟨rspValid_of_no_offer ho, t, ht, ?_⟩
  rw [step_deliveredOf ht, leaving_of_no_transfer (no_transfer_of_no_offer ho), List.append_nil]

/-- Settles O49: one appends at the end of a nonempty queue, the other removes its head. -/
theorem acceptAndDeliverCommute : Obligations.AcceptAndDeliverCommute := by
  intro s req hvalid hq
  obtain ⟨r, hr⟩ := rspValid_iff.mp hvalid
  simp [hr, List.tail_append_of_ne_nil hq]

/-! ### Errors are not sticky (R127) -/

section sameButResponse
variable {s t s' : State}

/-- Two such states are alike at the ports, but for what `rsp_data` and `rsp_status` carry. -/
theorem State.SameButResponse.ports (h : s.SameButResponse t) :
    s.drive = t.drive ∧ s.transfers = t.transfers ∧ s.accepts = t.accepts ∧ s.edge = t.edge := by
  obtain ⟨hq, ho, -, hp, hh⟩ := h
  have hd : s.drive = t.drive := by rw [State.drive, State.drive, hh]
  have htr : s.transfers = t.transfers := by
    simp only [State.transfers, State.rspValid, hd, ho]
  have hacc : s.accepts = t.accepts := by
    simp only [State.accepts, hd, reqReady_congr (congrArg Drive.rst hd) (seen_congr hp hq)]
  exact ⟨hd, htr, hacc, by simp only [State.edge, hd, htr, hacc]⟩

theorem State.SameButResponse.handshake (h : s.SameButResponse t) :
    s.handshake.SameButResponse t.handshake := by
  obtain ⟨hd, htr, hacc, he⟩ := h.ports
  obtain ⟨hq, ho, hw, hp, hh⟩ := h
  have hs := handshake_spec s
  have ht := handshake_spec t
  refine ⟨?_, ?_, ?_, ?_, ?_⟩
  · rw [hs.queue, ht.queue, htr, hacc, hq, hd]
  · rw [hs.offer, ht.offer, htr]
    split <;> simp [ho]
  · rw [hs.wait, ht.wait, htr, hw]
  · rw [hs.past, ht.past, he, hp]
  · rw [hs.host, ht.host, hh]

/-- A response that is on offer in neither state, or taken from both, leaves no difference. -/
theorem State.SameButResponse.handshake_offer (h : s.SameButResponse t)
    (hgone : s.offer = none ∨ s.transfers = true) : s.handshake.offer = t.handshake.offer := by
  obtain ⟨-, htr, -, -⟩ := h.ports
  obtain ⟨-, ho, -⟩ := h
  rw [(handshake_spec s).offer, (handshake_spec t).offer, ← htr]
  rcases hgone with hnone | htaken
  · have hnone' : t.offer = none := by simpa [hnone] using ho
    rw [hnone, hnone']
  · rw [if_pos htaken, if_pos htaken]

/-- The answer reads of the response on offer only that there is one. -/
theorem State.SameButResponse.answer (h : s.SameButResponse t) (ha : s.answer = .next s') :
    ∃ t', t.answer = .next t' ∧ s'.SameButResponse t' ∧ (s.offer = t.offer → s'.offer = t'.offer) := by
  have hsame := h
  obtain ⟨hq, ho, hw, hp, hh⟩ := h
  have hseen := seen_congr hp hq
  have hdelay := delay_congr hw hseen
  obtain ⟨heq, hstay⟩ | ⟨req, rest, hnone, hcons, hdue, heq⟩ | ⟨req, rest, n, hnone, hcons, hdue, heq⟩ :=
    answer_cases s <;> rw [heq] at ha <;> cases ha
  · refine ⟨t, ?_, hsame, id⟩
    rcases hstay with ⟨r, hr⟩ | hempty
    · obtain ⟨r', hr'⟩ : ∃ r', t.offer = some r' := by
        rw [← Option.isSome_iff_exists, ← ho, hr]
        rfl
      exact answer_offered hr'
    · exact answer_idle (hq ▸ hempty)
  · have hnone' : t.offer = none := by simpa [hnone] using ho
    rw [answer_due hnone' (hq ▸ hcons) (hdelay ▸ hdue), runRequest_eq_respond, State.any32,
      State.any32, hseen]
    exact ⟨_, rfl, ⟨hq, rfl, hw, hp, hh⟩, fun _ => rfl⟩
  · have hnone' : t.offer = none := by simpa [hnone] using ho
    rw [answer_waiting hnone' (hq ▸ hcons) (hdelay ▸ hdue)]
    exact ⟨_, rfl, ⟨hq, ho, rfl, hp, hh⟩, id⟩

end sameButResponse

/-- Settles O53: the handshakes take the difference away with the response, and the answer makes no
new one. -/
theorem errorsAreNotSticky : Obligations.ErrorsAreNotSticky := by
  intro s t s' hsame h
  obtain ⟨hd, htr, -, he⟩ := hsame.ports
  obtain ⟨hrst, rfl⟩ | ⟨hrst, -, ha⟩ := step_cases h
  · obtain ⟨-, -, -, hp, hh⟩ := hsame
    exact ⟨t.resetEdge, step_reset (hd ▸ hrst), ⟨rfl, rfl, rfl, by simp [he, hp], by simp [hh]⟩,
      fun _ => rfl⟩
  · obtain ⟨t', ht', hsame', hoffer⟩ := hsame.handshake.answer ha
    exact ⟨t', (step_running (hd ▸ hrst)).trans ht', hsame',
      fun hgone => hoffer (hsame.handshake_offer hgone)⟩

end Sys2Proof.Machine
end

section
/-! PROOFS. Runs (10_state.md, 70_reset_and_hazards.md): what holds along every run from reset, and
back-pressure. -/

namespace Sys2Proof.Machine

/-! ### Runs of the machine -/

section run
variable {s t : State} {n k : Nat}

theorem run_succ (h : step s = .next t) : core.run (n + 1) s = core.run n t := by
  have hcore : core.step s = .next t := h
  simp only [Host.Core.run, hcore]

theorem run_exists (n : Nat) (s : State) : ∃ t : State, core.run n s = .next t := by
  induction n generalizing s with
  | zero => exact ⟨s, rfl⟩
  | succ n ih =>
    obtain ⟨t, ht⟩ := step_exists s
    rw [run_succ ht]
    exact ih t

theorem run_add (h : core.run k s = .next t) : core.run (k + n) s = core.run n t := by
  induction k generalizing s with
  | zero =>
    cases h
    rw [Nat.zero_add]
  | succ k ih =>
    obtain ⟨mid, hmid⟩ := step_exists s
    rw [run_succ hmid] at h
    rw [Nat.add_right_comm, run_succ hmid]
    exact ih h

/-- What every step keeps, every run keeps. -/
theorem run_keeps {P : State → Prop} (hstep : ∀ s t : State, P s → step s = .next t → P t)
    (hs : P s) (h : core.run n s = .next t) : P t := by
  induction n generalizing s with
  | zero =>
    cases h
    exact hs
  | succ n ih =>
    obtain ⟨mid, hmid⟩ := step_exists s
    rw [run_succ hmid] at h
    exact ih (hstep s mid hs hmid) h

/-- A run only adds to the responses transferred. -/
theorem run_delivered_length_le (h : core.run n s = .next t) :
    (deliveredOf s.trace).length ≤ (deliveredOf t.trace).length := by
  refine run_keeps (P := fun u => (deliveredOf s.trace).length ≤ (deliveredOf u.trace).length)
    (fun _ _ hu hv => ?_) le_rfl h
  rw [step_deliveredOf hv, List.length_append]
  omega

/-- A run only adds to the observation. -/
theorem run_trace_prefix (h : core.run n s = .next t) : s.trace <+: t.trace :=
  run_keeps (P := fun u => s.trace <+: u.trace)
    (fun _ _ hu hv => step_trace hv ▸ hu.trans (List.prefix_append _ _)) (List.prefix_refl _) h

end run

/-- What holds in every state of a run from reset. -/
def State.FollowsTransitions (s : State) : Prop :=
  Transitions [] s.trace s.queue ∧ s.ChannelInv ∧ s.InOrder

theorem step_followsTransitions (s t : State) (h : s.FollowsTransitions) (hst : step s = .next t) :
    t.FollowsTransitions := by
  obtain ⟨htrans, hinv, horder⟩ := h
  refine ⟨?_, stepKeepsChannelInvariant s t hinv hst, responsesKeepRequestOrder s t hinv horder hst⟩
  rw [step_trace hst]
  exact transitions_append htrans (step_transitions hinv hst)

/-- Settles O52: all three hold at reset, and every step keeps them. -/
theorem everyRunFollowsTransitionSystem : Obligations.EveryRunFollowsTransitionSystem := by
  intro host n t h
  have hreset : State.FollowsTransitions { State.reset with host := host } :=
    ⟨rfl, resetMeetsChannelInvariant, resetIsInOrder⟩
  exact run_keeps step_followsTransitions hreset h

/-! ### Back-pressure (R152) -/

section held
variable {s t : State}

theorem entering_of_offered (hrst : s.drive.rst = false) (hvalid : s.drive.reqValid = true) :
    s.entering = if s.queue.length < Config.capacity then [s.drive.reqData] else [] := by
  simp only [State.entering, accepts_iff, hrst, hvalid, true_and]

/-- An edge at which the host offers a request and takes no response. -/
theorem step_of_backpressure (hrst : s.drive.rst = false) (hvalid : s.drive.reqValid = true)
    (hready : s.drive.rspReady = false) (hlen : s.queue.length ≤ Config.capacity)
    (h : step s = .next t) :
    deliveredOf t.trace = deliveredOf s.trace ∧ s.queue <+: t.queue ∧
      t.queue.length = min Config.capacity (s.queue.length + 1) := by
  have htr : s.transfers ≠ true := by simp [transfers_iff, hready]
  have hq := step_queue hrst h
  rw [if_neg htr, entering_of_offered hrst hvalid] at hq
  refine ⟨?_, hq ▸ List.prefix_append _ _, ?_⟩
  · rw [step_deliveredOf h, leaving_of_no_transfer htr, List.append_nil]
  · rw [hq]
    split <;> simp <;> omega

end held

theorem run_of_backpressure {s : State} {n : Nat} (hlen : s.queue.length ≤ Config.capacity)
    (hn : n ≤ s.host.length)
    (hhost : ∀ d ∈ s.host.take n, d.rst = false ∧ d.reqValid = true ∧ d.rspReady = false) :
    ∃ t : State, core.run n s = .next t ∧ deliveredOf t.trace = deliveredOf s.trace ∧
      s.queue <+: t.queue ∧ t.queue.length = min Config.capacity (s.queue.length + n) := by
  induction n generalizing s with
  | zero => exact ⟨s, rfl, rfl, List.prefix_refl _, by omega⟩
  | succ n ih =>
    obtain ⟨d, ds, hds⟩ := List.exists_cons_of_length_pos (by omega : 0 < s.host.length)
    have hd : s.drive = d := by rw [State.drive, hds]; rfl
    rw [hds, List.take_succ_cons, List.forall_mem_cons] at hhost
    obtain ⟨⟨hrst, hvalid, hready⟩, htake⟩ := hhost
    obtain ⟨mid, hmid⟩ := step_exists s
    have hhost' : mid.host = ds := by rw [(step_cycle hmid).2, hds]; rfl
    obtain ⟨hdel, hpre, hlen'⟩ :=
      step_of_backpressure (hd ▸ hrst) (hd ▸ hvalid) (hd ▸ hready) hlen hmid
    obtain ⟨t, ht, hdel', hpre', hlen''⟩ :=
      ih (s := mid) (by omega) (by rw [hhost']; simpa [hds] using hn) (hhost' ▸ htake)
    exact ⟨t, run_succ hmid ▸ ht, hdel'.trans hdel, hpre.trans hpre', by omega⟩

/-- Settles O56: edge by edge the queue takes a word in until it has CAPACITY of them. -/
theorem backpressureFillsTheQueue : Obligations.BackpressureFillsTheQueue := by
  intro s n hlen hn hhost
  obtain ⟨t, ht, hdel, hpre, hlen'⟩ := run_of_backpressure hlen hn hhost
  refine ⟨t, ht, hdel, hpre, hlen', fun hfull hrst => ?_⟩
  rw [reqReady_of_running hrst]
  exact decide_eq_false (by omega)

end Sys2Proof.Machine
end

section
/-! PROOFS. Liveness (70_reset_and_hazards.md section 3): a response comes on offer, every request in
flight is answered, and weak fairness of `Deliver`. -/

namespace Sys2Proof.Machine

/-! ### A response comes on offer (R30, R151) -/

/-- A request is in flight, none of it is answered yet, and `n` more edges of its delay are left. -/
structure State.Waiting (s : State) (n : Nat) : Prop where
  queue : s.queue ≠ []
  offer : s.offer = none
  wait : s.wait = some n

/-- From `s` to `t` requests were accepted at most. -/
def State.OnlyAccepted (s t : State) : Prop :=
  s.queue <+: t.queue ∧ deliveredOf t.trace = deliveredOf s.trace

theorem State.OnlyAccepted.refl (s : State) : s.OnlyAccepted s := ⟨List.prefix_refl _, rfl⟩

theorem State.OnlyAccepted.trans {s t u : State} (h : s.OnlyAccepted t) (h' : t.OnlyAccepted u) :
    s.OnlyAccepted u :=
  ⟨h.1.trans h'.1, h'.2.trans h.2⟩

section pending
variable {s t : State}

theorem step_of_no_transfer (hrst : s.drive.rst = false) (htr : s.transfers ≠ true)
    (h : step s = .next t) : s.OnlyAccepted t := by
  refine ⟨?_, ?_⟩
  · rw [step_queue hrst h, if_neg htr]
    exact List.prefix_append _ _
  · rw [step_deliveredOf h, leaving_of_no_transfer htr, List.append_nil]

/-- One edge of a request without a response on offer: its response comes on offer, or the delay that
the handshakes leave is one less. -/
theorem step_of_no_offer (hrst : s.drive.rst = false) (ho : s.offer = none) (hq : s.queue ≠ [])
    (h : step s = .next t) :
    t.rspValid = true ∨ ∃ n, s.handshake.delay = n + 1 ∧ t.Waiting n := by
  have htr := no_transfer_of_no_offer ho
  have ho' : s.handshake.offer = none := (handshake_offer_of_no_transfer htr).trans ho
  have hq' : s.handshake.queue ≠ [] := by
    rw [(handshake_of_no_transfer htr).1]
    exact List.append_ne_nil_of_left_ne_nil hq _
  rw [step_running hrst] at h
  obtain ⟨-, ⟨r, hr⟩ | hnil⟩ | ⟨req, rest, -, -, -, ha⟩ | ⟨req, rest, n, -, -, hdelay, ha⟩ :=
    answer_cases s.handshake
  · simp [ho'] at hr
  · exact absurd hnil hq'
  · rw [ha] at h
    cases h
    exact .inl rfl
  · rw [ha] at h
    cases h
    exact .inr ⟨n, hdelay, hq', ho', rfl⟩

/-- While a request waits every edge takes one off its delay. -/
theorem step_of_waiting {n : Nat} (hrst : s.drive.rst = false) (hw : s.Waiting n)
    (h : step s = .next t) : t.rspValid = true ∨ ∃ m, n = m + 1 ∧ t.Waiting m := by
  obtain ⟨hq, ho, hwait⟩ := hw
  have hdelay : s.handshake.delay = n :=
    delay_of_some ((handshake_of_no_transfer (no_transfer_of_no_offer ho)).2.trans hwait)
  rw [← hdelay]
  exact step_of_no_offer hrst ho hq h

end pending

/-! ### What is inevitable: reached within a number of edges that does not depend on the host -/

/-- Driven as `ok` says, the block reaches `goal` within `n` edges. -/
def InevitableWithin (ok : Drive → Prop) (goal : State → Prop) (n : Nat) (s : State) : Prop :=
  ∀ host : List Drive, (∀ i < n, ok (host.getD i idleDrive)) →
    ∃ k ≤ n, ∃ t : State, core.run k ({ s with host := host } : State) = .next t ∧ goal t

/-- Driven as `ok` says, the block reaches `goal` within some number of edges, the same number for
every host (R151). -/
def Inevitable (ok : Drive → Prop) (goal : State → Prop) (s : State) : Prop :=
  ∃ n, InevitableWithin ok goal n s

/-- The state in a cycle in which the host drives `d`, and of which nothing more is known. -/
def State.driven (s : State) (d : Drive) : State := { s with host := [d] }

@[simp] theorem driven_drive (s : State) (d : Drive) : (s.driven d).drive = d := rfl
@[simp] theorem driven_queue (s : State) (d : Drive) : (s.driven d).queue = s.queue := rfl
@[simp] theorem driven_trace (s : State) (d : Drive) : (s.driven d).trace = s.trace := rfl

theorem State.Waiting.driven {s : State} {n : Nat} (h : s.Waiting n) (d : Drive) :
    (s.driven d).Waiting n :=
  ⟨h.queue, h.offer, h.wait⟩

section withHost
variable {s t u : State}

theorem HandshakeSpec.unique (ht : HandshakeSpec s t) (hu : HandshakeSpec s u) : t = u := by
  obtain ⟨hq, ho, hw, hp, hh, htr⟩ := ht
  obtain ⟨hq', ho', hw', hp', hh', htr'⟩ := hu
  cases t
  cases u
  simp_all only

/-- The handshakes read the drive of the current cycle alone. -/
theorem handshake_withHost (s : State) (host : List Drive) :
    ({ s with host := host } : State).handshake =
      { (s.driven (host.headD idleDrive)).handshake with host := host.tail } :=
  have hspec := handshake_spec (s.driven (host.headD idleDrive))
  (handshake_spec _).unique
    ⟨hspec.queue, hspec.offer, hspec.wait, hspec.past, rfl, hspec.trace⟩

theorem answer_withHost (host : List Drive) (h : s.answer = .next t) :
    ({ s with host := host } : State).answer = .next { t with host := host } := by
  obtain ⟨ha, ⟨r, hr⟩ | hq⟩ | ⟨req, rest, ho, hq, hdelay, ha⟩ | ⟨req, rest, n, ho, hq, hdelay, ha⟩ :=
    answer_cases s <;> rw [ha] at h <;> cases h
  · exact answer_offered hr
  · exact answer_idle hq
  · exact (answer_due (s := { s with host := host }) ho hq hdelay).trans (runRequest_eq_respond ..)
  · exact answer_waiting (s := { s with host := host }) ho hq hdelay

/-- An edge reads one drive and leaves the others for the edges to come. -/
theorem step_withHost (host : List Drive) (h : step (s.driven (host.headD idleDrive)) = .next t) :
    step ({ s with host := host } : State) = .next { t with host := host.tail } := by
  obtain ⟨hrst, rfl⟩ | ⟨hrst, -, ha⟩ := step_cases h
  · exact step_reset hrst
  · rw [step_running (s := { s with host := host }) hrst, handshake_withHost]
    exact answer_withHost _ ha

end withHost

theorem drive_finite : Finite Drive := by
  refine Finite.of_injective (β := Bool × Bool × Fin (2 ^ 32) × Bool)
    (fun d => (d.rst, d.reqValid, d.reqData.toFin, d.rspReady)) ?_
  rintro ⟨r, v, w, y⟩ ⟨r', v', w', y'⟩ h
  simpa [← BitVec.toFin_inj] using h

namespace Inevitable
variable {ok : Drive → Prop} {goal : State → Prop} {s : State}

theorem of_goal (h : ∀ host, goal { s with host := host }) : Inevitable ok goal s :=
  ⟨0, fun host _ => ⟨0, le_rfl, _, rfl, h host⟩⟩

/-- One edge, and then as many as are enough after every drive that the host may choose for it. -/
theorem within_succ {n : Nat}
    (h : ∀ d, ok d → ∃ m ≤ n, ∃ t, step (s.driven d) = .next t ∧ InevitableWithin ok goal m t) :
    InevitableWithin ok goal (n + 1) s := by
  intro host hhost
  have hd : ok (host.headD idleDrive) := by
    have hfirst := hhost 0 (by omega)
    rwa [List.getD_eq_getElem?_getD, ← List.head?_eq_getElem?, ← List.headD_eq_head?_getD] at hfirst
  obtain ⟨m, hm, t, ht, hreach⟩ := h _ hd
  obtain ⟨k, hk, u, hu, hgoal⟩ := hreach host.tail fun i hi => by
    have hlater := hhost (i + 1) (by omega)
    rwa [List.getD_eq_getElem?_getD, ← List.getElem?_tail, ← List.getD_eq_getElem?_getD] at hlater
  exact ⟨k + 1, by omega, u, (run_succ (step_withHost host ht)).trans hu, hgoal⟩

/-- A host has finitely many drives to choose from, so what is inevitable after each of them is
inevitable before. -/
theorem of_step
    (h : ∀ d, ok d → ∀ t, step (s.driven d) = .next t → Inevitable ok goal t) :
    Inevitable ok goal s := by
  have hfinite : Finite Drive := drive_finite
  choose next hnext using fun d : Drive => step_exists (s.driven d)
  have hbound (d : Drive) : ∃ n, ok d → InevitableWithin ok goal n (next d) := by
    by_cases hd : ok d
    · obtain ⟨n, hn⟩ := h d hd _ (hnext d)
      exact ⟨n, fun _ => hn⟩
    · exact ⟨0, fun hok => absurd hok hd⟩
  choose bound hreach using hbound
  obtain ⟨n, hn⟩ := (Set.finite_range bound).bddAbove
  exact ⟨n + 1, within_succ fun d hd => ⟨bound d, hn ⟨d, rfl⟩, next d, hnext d, hreach d hd⟩⟩

section offer
variable (hok : ∀ d, ok d → d.rst = false)
include hok

theorem of_waiting {n : Nat} (hw : s.Waiting n)
    (h : ∀ t, s.OnlyAccepted t → t.rspValid = true → Inevitable ok goal t) :
    Inevitable ok goal s := by
  induction n using Nat.strong_induction_on generalizing s with
  | _ n ih =>
    refine of_step fun d hd t ht => ?_
    have hacc := step_of_no_transfer (s := s.driven d) (hok d hd)
      (no_transfer_of_no_offer hw.offer) ht
    obtain hvalid | ⟨m, hm, hwt⟩ := step_of_waiting (s := s.driven d) (hok d hd) (hw.driven d) ht
    · exact h t hacc hvalid
    · exact ih m (by omega) hwt fun u hu => h u (hacc.trans hu)

/-- Without a reset the response to the head comes on offer, and before that nothing leaves. -/
theorem of_offer (hq : s.queue ≠ [])
    (h : ∀ t, s.OnlyAccepted t → t.rspValid = true → Inevitable ok goal t) :
    Inevitable ok goal s := by
  cases ho : s.offer with
  | some r => exact h s (.refl s) (rspValid_iff.mpr ⟨r, ho⟩)
  | none =>
    refine of_step fun d hd t ht => ?_
    have hacc := step_of_no_transfer (s := s.driven d) (hok d hd)
      (no_transfer_of_no_offer ho) ht
    obtain hvalid | ⟨n, -, hw⟩ := step_of_no_offer (s := s.driven d) (hok d hd) ho hq ht
    · exact h t hacc hvalid
    · exact of_waiting hok hw fun u hu => h u (hacc.trans hu)

end offer

end Inevitable

/-- Settles O54: among finitely many first edges one leaves the longest delay, and then every edge
takes one off it. -/
theorem headIsAnsweredInFiniteTime : Obligations.HeadIsAnsweredInFiniteTime := by
  intro s hq
  obtain ⟨n, hn⟩ : Inevitable (·.rst = false) (·.rspValid = true) s :=
    .of_offer (fun _ hd => hd) hq fun _ _ hvalid => .of_goal fun _ => hvalid
  refine ⟨n, fun host hhost => hn host fun i hi => ?_⟩
  rcases Nat.lt_or_ge i host.length with hlt | hge
  · rw [List.getD_eq_getElem _ _ hlt]
    exact hhost _ (List.mem_take_iff_getElem.mpr ⟨i, by omega, rfl⟩)
  · rw [List.getD_eq_default _ _ hge]
    rfl

/-! ### Every request in flight is answered (R151) -/

/-- A drive of a host that takes responses and does not reset. -/
def Drive.Takes (d : Drive) : Prop := d.rst = false ∧ d.rspReady = true

/-- How many responses have been transferred. -/
def State.deliveries (s : State) : Nat := (deliveredOf s.trace).length

theorem step_of_takes {s t : State} (hd : s.drive.Takes) (hvalid : s.rspValid = true)
    (h : step s = .next t) :
    t.deliveries = s.deliveries + 1 ∧ s.queue.length ≤ t.queue.length + 1 := by
  obtain ⟨hrst, hready⟩ := hd
  have htr : s.transfers = true := transfers_iff_ports.mpr ⟨hrst, hvalid, hready⟩
  obtain ⟨r, hr⟩ := rspValid_iff.mp hvalid
  constructor
  · simp [State.deliveries, step_deliveredOf h, leaving_of_transfer htr hr]
  · rw [step_queue hrst h, if_pos htr]
    simp
    omega

theorem inevitable_deliveries {s : State} {n : Nat} (hn : n ≤ s.queue.length) :
    Inevitable Drive.Takes (fun t => s.deliveries + n ≤ t.deliveries) s := by
  induction n generalizing s with
  | zero => exact .of_goal fun _ => le_rfl
  | succ n ih =>
    refine .of_offer (fun _ hd => hd.1) (List.ne_nil_of_length_pos (by omega)) ?_
    rintro t ⟨hpre, hdel⟩ hvalid
    refine .of_step fun d hd u hu => ?_
    obtain ⟨hcount, hlen⟩ := step_of_takes (s := t.driven d) hd hvalid hu
    have hlen' := hpre.length_le
    have hsum : s.deliveries + (n + 1) = u.deliveries + n := by
      rw [hcount, State.deliveries, State.deliveries, driven_trace, hdel]
      omega
    rw [hsum]
    exact ih (by simp only [driven_queue] at hlen; omega)

/-- Settles O55: each response comes on offer and is taken at the next edge, as often as there are
requests in the queue. -/
theorem everyRequestInFlightIsAnswered : Obligations.EveryRequestInFlightIsAnswered := by
  intro s
  obtain ⟨n, hn⟩ := inevitable_deliveries (s := s) le_rfl
  refine ⟨n, fun host hlen hhost => ?_⟩
  obtain ⟨k, hk, t, ht, hcount⟩ := hn host fun i hi => by
    rw [List.getD_eq_getElem _ _ (hi.trans_le hlen)]
    exact hhost _ (List.getElem_mem _)
  obtain ⟨u, hu⟩ := run_exists (n - k) t
  have hrun : core.run n ({ s with host := host } : State) = .next u := by
    rw [← Nat.add_sub_cancel' hk, run_add ht, hu]
  refine ⟨u, hrun, ?_⟩
  obtain ⟨shown, hshown⟩ := run_trace_prefix hrun
  have hmore := run_delivered_length_le hu
  dsimp only at hshown
  rw [← hshown, List.drop_left]
  rw [← hshown, deliveredOf_append, List.length_append] at hmore
  unfold State.deliveries at hcount
  omega

/-! ### Weak fairness of `Deliver` (R151) -/

section infiniteRun
variable {drives : Nat → Drive} {run : Nat → State} {m : Nat}

theorem InfiniteRun.edge (hrun : InfiniteRun drives run) (n : Nat) :
    step ((run n).driven (drives n)) = .next (run (n + 1)) := hrun n

/-- Where the queue is not empty after an edge, the edge was no reset edge. -/
theorem InfiniteRun.rst_eq_false (hrun : InfiniteRun drives run) {n : Nat}
    (hq : (run (n + 1)).queue ≠ []) : (drives n).rst = false := by
  by_contra hrst
  have hreset : step ((run n).driven (drives n)) = .next ((run n).driven (drives n)).resetEdge :=
    step_reset (by simpa using hrst)
  have hnext := Host.Outcome.next.inj ((hrun.edge n).symm.trans hreset)
  exact hq (hnext ▸ resetEdge_queue _)

theorem InfiniteRun.offers_of_waiting (hrun : InfiniteRun drives run)
    (hq : ∀ n, m ≤ n → (run n).queue ≠ []) {n j : Nat} (hn : m ≤ n) (hw : (run n).Waiting j) :
    ∃ n, m ≤ n ∧ (run n).rspValid = true := by
  induction j using Nat.strong_induction_on generalizing n with
  | _ j ih =>
    have hrst : ((run n).driven (drives n)).drive.rst = false :=
      hrun.rst_eq_false (hq (n + 1) (by omega))
    obtain hvalid | ⟨i, hi, hwi⟩ := step_of_waiting hrst (hw.driven _) (hrun.edge n)
    · exact ⟨n + 1, by omega, hvalid⟩
    · exact ih i (by omega) (by omega) hwi

/-- While requests stay in flight a response comes on offer. -/
theorem InfiniteRun.offers (hrun : InfiniteRun drives run)
    (hq : ∀ n, m ≤ n → (run n).queue ≠ []) : ∃ n, m ≤ n ∧ (run n).rspValid = true := by
  cases ho : (run m).offer with
  | some r => exact ⟨m, le_rfl, rspValid_iff.mpr ⟨r, ho⟩⟩
  | none =>
    obtain hvalid | ⟨j, -, hw⟩ := step_of_no_offer (s := (run m).driven (drives m))
      (hrun.rst_eq_false (hq (m + 1) (by omega))) ho (hq m le_rfl) (hrun.edge m)
    · exact ⟨m + 1, by omega, hvalid⟩
    · exact hrun.offers_of_waiting hq (by omega) hw

theorem InfiniteRun.channelInv (hrun : InfiniteRun drives run) (h0 : (run 0).ChannelInv) (n : Nat) :
    (run n).ChannelInv := by
  induction n with
  | zero => exact h0
  | succ n ih => exact stepKeepsChannelInvariant ((run n).driven (drives n)) _ ih (hrun.edge n)

/-- What cycle `n` of an infinite run shows. -/
def shownBy (drives : Nat → Drive) (run : Nat → State) (n : Nat) : List Event :=
  ((run n).driven (drives n)).shown

theorem InfiniteRun.behaviour (hrun : InfiniteRun drives run) (h0 : (run 0).ChannelInv) :
    Behaviour (fun n => (run n).queue) (shownBy drives run) := fun n =>
  step_transitions (s := (run n).driven (drives n)) (hrun.channelInv h0 n) (hrun.edge n)

theorem mem_shown_of_transfers {s : State} (h : s.transfers = true) :
    ∃ rsp, Event.deliver rsp ∈ s.shown := by
  obtain ⟨hrst, ⟨r, hr⟩, -⟩ := transfers_iff.mp h
  exact ⟨r, by simp [State.shown, hrst, leaving_of_transfer h hr]⟩

/-- A response on offer stays until the host takes it, if requests stay in flight. -/
theorem InfiniteRun.stays_or_delivers (hrun : InfiniteRun drives run)
    (hq : ∀ n, m ≤ n → (run n).queue ≠ []) {n : Nat} (hn : m ≤ n) (hvalid : (run n).rspValid = true) :
    (∃ rsp, Event.deliver rsp ∈ shownBy drives run n) ∨
      (drives n).rspReady = false ∧ (run (n + 1)).rspValid = true := by
  have hrst := hrun.rst_eq_false (hq (n + 1) (by omega))
  cases hready : (drives n).rspReady with
  | true =>
    exact .inl (mem_shown_of_transfers (s := (run n).driven (drives n))
      (transfers_iff_ports.mpr ⟨hrst, hvalid, hready⟩))
  | false =>
    obtain ⟨t, ht, hvalid', -⟩ :=
      offerStaysUntilTakenOrReset ((run n).driven (drives n)) hvalid hrst hready
    obtain rfl : run (n + 1) = t := Host.Outcome.next.inj ((hrun.edge n).symm.trans ht)
    exact .inr ⟨rfl, hvalid'⟩

theorem InfiniteRun.weaklyFairDeliver (hrun : InfiniteRun drives run)
    (hready : ∀ m, ∃ n, m ≤ n ∧ (drives n).rspReady = true) :
    WeaklyFairDeliver (fun n => (run n).queue) (shownBy drives run) := by
  intro m hq
  by_contra hnone
  obtain ⟨n, hn, hvalid⟩ := hrun.offers hq
  have hstays (k : Nat) (hk : n ≤ k) :
      (drives k).rspReady = false ∧ (run (k + 1)).rspValid = true := by
    induction k, hk using Nat.le_induction with
    | base =>
      exact (hrun.stays_or_delivers hq hn hvalid).resolve_left fun h => hnone ⟨n, hn, h⟩
    | succ k hk ih =>
      exact (hrun.stays_or_delivers hq (by omega) ih.2).resolve_left
        fun h => hnone ⟨k + 1, by omega, h⟩
  obtain ⟨k, hk, hkready⟩ := hready n
  have hkstays := hstays k hk
  simp [hkready] at hkstays

end infiniteRun

/-! ### Weakly fair behaviours answer everything in flight -/

/-- Without a reset the requests in the queue and those accepted are, in order, the ones answered and
the ones left. -/
theorem transitions_answers {q q' : List Word} {es : List Event} (h : Transitions q es q')
    (hno : Event.reset ∉ es) :
    ∃ reqs, q ++ acceptedOf es = reqs ++ q' ∧ List.Forall₂ Answers reqs (deliveredOf es) := by
  induction es generalizing q with
  | nil =>
    obtain rfl : q' = q := h
    exact ⟨[], by simp, .nil⟩
  | cons e es ih =>
    obtain ⟨mid, he, hrest⟩ := h
    rw [List.mem_cons, not_or] at hno
    obtain ⟨reqs, hreqs, hans⟩ := ih hrest hno.2
    rw [← List.singleton_append, acceptedOf_append, deliveredOf_append]
    cases e with
    | accept req =>
      obtain ⟨-, rfl⟩ := he
      exact ⟨reqs, by simpa using hreqs, hans⟩
    | deliver rsp =>
      obtain ⟨req, any, rfl, hrsp⟩ := he
      exact ⟨req :: reqs, by simpa using hreqs, .cons ⟨any, hrsp⟩ hans⟩
    | reset => exact absurd rfl hno.1

/-- What `n` cycles from cycle `m` on show. -/
def shownFrom (shown : Nat → List Event) (m n : Nat) : List Event :=
  (List.range n).flatMap fun k => shown (m + k)

section behaviour
variable {q : Nat → List Word} {shown : Nat → List Event} {m : Nat}

theorem shownFrom_succ (shown : Nat → List Event) (m n : Nat) :
    shownFrom shown m (n + 1) = shownFrom shown m n ++ shown (m + n) := by
  simp [shownFrom, List.range_succ]

theorem Behaviour.transitions (h : Behaviour q shown) (m n : Nat) :
    Transitions (q m) (shownFrom shown m n) (q (m + n)) := by
  induction n with
  | zero => rfl
  | succ n ih =>
    rw [shownFrom_succ]
    exact transitions_append ih (h (m + n))

theorem reset_notMem_shownFrom (hno : ∀ n, m ≤ n → Event.reset ∉ shown n) (n : Nat) :
    Event.reset ∉ shownFrom shown m n := by
  simp only [shownFrom, List.mem_flatMap, not_exists, not_and]
  exact fun k _ => hno (m + k) (Nat.le_add_right m k)

theorem deliveredOf_length_pos {es : List Event} {rsp : Response} (h : Event.deliver rsp ∈ es) :
    0 < (deliveredOf es).length :=
  List.length_pos_of_mem (List.mem_filterMap.mpr ⟨_, h, rfl⟩ : rsp ∈ deliveredOf es)

theorem deliveredOf_shownFrom_mono {n n' : Nat} (h : n ≤ n') :
    (deliveredOf (shownFrom shown m n)).length ≤ (deliveredOf (shownFrom shown m n')).length := by
  induction n', h using Nat.le_induction with
  | base => exact le_rfl
  | succ n' _ ih =>
    rw [shownFrom_succ, deliveredOf_append, List.length_append]
    omega

/-- While the queue never empties, weak fairness gives one delivery after another. -/
theorem WeaklyFairDeliver.deliveries_unbounded (hfair : WeaklyFairDeliver q shown)
    (hq : ∀ n, m ≤ n → q n ≠ []) (j : Nat) :
    ∃ n, j ≤ (deliveredOf (shownFrom shown m n)).length := by
  induction j with
  | zero => exact ⟨0, Nat.zero_le _⟩
  | succ j ih =>
    obtain ⟨n, hn⟩ := ih
    obtain ⟨k, hk, rsp, hrsp⟩ := hfair (m + n) fun i hi => hq i (by omega)
    obtain ⟨i, rfl⟩ := Nat.exists_eq_add_of_le hk
    refine ⟨n + i + 1, ?_⟩
    have hmono := deliveredOf_shownFrom_mono (shown := shown) (m := m) (Nat.le_add_right n i)
    have hpos := deliveredOf_length_pos hrsp
    rw [shownFrom_succ, deliveredOf_append, List.length_append, ← Nat.add_assoc]
    omega

/-- As many responses leave as requests were in flight: either the queue empties, or deliveries go
on. -/
theorem WeaklyFairDeliver.exists_deliveries (hfair : WeaklyFairDeliver q shown)
    (hb : Behaviour q shown) (hno : ∀ n, m ≤ n → Event.reset ∉ shown n) :
    ∃ n, (q m).length ≤ (deliveredOf (shownFrom shown m n)).length := by
  by_cases hempty : ∃ n, m ≤ n ∧ q n = []
  · obtain ⟨k, hk, hnil⟩ := hempty
    obtain ⟨n, rfl⟩ := Nat.exists_eq_add_of_le hk
    obtain ⟨reqs, hreqs, hans⟩ :=
      transitions_answers (hb.transitions m n) (reset_notMem_shownFrom hno n)
    refine ⟨n, ?_⟩
    rw [← hans.length_eq]
    rw [hnil, List.append_nil] at hreqs
    rw [← hreqs, List.length_append]
    omega
  · exact hfair.deliveries_unbounded (fun n hn hnil => hempty ⟨n, hn, hnil⟩) _

theorem WeaklyFairDeliver.answers (hfair : WeaklyFairDeliver q shown) (hb : Behaviour q shown)
    (hno : ∀ n, m ≤ n → Event.reset ∉ shown n) :
    ∃ (n : Nat) (answered later : List Response),
      deliveredOf (shownFrom shown m n) = answered ++ later ∧
        List.Forall₂ Answers (q m) answered := by
  obtain ⟨n, hn⟩ := hfair.exists_deliveries hb hno
  obtain ⟨reqs, hreqs, hans⟩ :=
    transitions_answers (hb.transitions m n) (reset_notMem_shownFrom hno n)
  have hpre : q m <+: reqs := List.prefix_of_prefix_length_le
    (hreqs ▸ List.prefix_append _ _) (List.prefix_append _ _) (hans.length_eq ▸ hn)
  refine ⟨n, _, _, (List.take_append_drop (q m).length _).symm, ?_⟩
  rw [List.prefix_iff_eq_take.mp hpre, List.length_take_of_le hpre.length_le]
  exact List.forall₂_take _ hans

end behaviour

/-- Settles O60: a drawn delay runs out, an offer stays until the host takes it, and what is delivered
first is what was in flight. -/
theorem deliverIsWeaklyFair : Obligations.DeliverIsWeaklyFair :=
  ⟨fun _ _ hrun _ hq => hrun.offers hq,
    fun drives run hrun h0 hready => ⟨shownBy drives run,
      fun n => step_trace (s := (run n).driven (drives n)) (hrun.edge n),
      hrun.behaviour h0, hrun.weaklyFairDeliver hready⟩,
    fun _ _ hb hfair _ hno => hfair.answers hb hno⟩

end Sys2Proof.Machine
end
